-- ==== Sys2Proof/Word.lean ====
section
/-! DEFINITION. The words of MAGICGEN (00_scope R5, R8): the two channel words, the 64-bit operand and the 32-bit word.
Bit 0 is the least significant bit of every word. -/

namespace Sys2Proof

/-- A command word `cw`, format C (30_encoding R71): 130 bits. -/
abbrev CommandWord := BitVec 130

/-- A response word `rw`, format R (30_encoding R74): 41 bits. -/
abbrev ResponseWord := BitVec 41

/-- A command operand (00_scope R5, `OPW`): 64 bits, two's complement. -/
abbrev OperandWord := BitVec 64

/-- A 32-bit word (00_scope R5, `W`): a multiplier, a product, an inverse, an effective divisor. -/
abbrev Word := BitVec 32

end Sys2Proof
end

