-- ==== Sys2Proof/Syntax.lean ====
section
/-! DEFINITION. The four commands of MG32 (30_encoding R72), the fields of a response (R74) and the assembler's source
lines (R81, R82). -/

namespace Sys2Proof

/-- The opcode field `op` (30_encoding R72): four values, all assigned. -/
inductive Opcode where
  | mul32
  | smagic
  | umagic
  | modinv
  deriving DecidableEq, Repr

/-- A command: one constructor per row of spec/opcode_table.json. Each carries both operand fields of format C
(30_encoding R71), also the `b` that SMAGIC, UMAGIC and MODINV ignore (R73), so that no bit of a command word is lost.
DESIGN CHOICE, notes/assumptions/13.md; safe. -/
inductive Instr where
  /-- UnsignedMul32 (40_mul32 R101). -/
  | mul32 (a b : OperandWord)
  /-- SignedMagic (41_smagic R110). -/
  | smagic (a b : OperandWord)
  /-- UnsignedMagic (42_umagic R140). -/
  | umagic (a b : OperandWord)
  /-- ModularInverse (43_modinv R170). -/
  | modinv (a b : OperandWord)
  deriving DecidableEq, Repr

/-- The opcode a command has. -/
def Instr.opcode : Instr → Opcode
  | .mul32 _ _ => .mul32
  | .smagic _ _ => .smagic
  | .umagic _ _ => .umagic
  | .modinv _ _ => .modinv

/-- The operand field `a` (30_encoding R71). -/
def Instr.operandA : Instr → OperandWord
  | .mul32 a _ => a
  | .smagic a _ => a
  | .umagic a _ => a
  | .modinv a _ => a

/-- The operand field `b` (30_encoding R71). -/
def Instr.operandB : Instr → OperandWord
  | .mul32 _ b => b
  | .smagic _ b => b
  | .umagic _ b => b
  | .modinv _ b => b

/-- What the `status` field of a response says (60_exceptions R201): these four are all there are. -/
inductive Status where
  | ok
  | errRange
  | errDegenerate
  | errEven
  deriving DecidableEq, Repr

/-- The fields of a response word (30_encoding R74). -/
structure Response where
  status : Status
  add : Bool
  shift : BitVec 6
  value : Word
  deriving DecidableEq, Repr

/-- An operand as the assembler's source writes it (30_encoding R81): a decimal integer, or a `0x` literal that
denotes a bit pattern. -/
inductive SourceOperand where
  | decimal (v : Int)
  | hex (pattern : Nat)
  deriving DecidableEq, Repr

/-- A source line (30_encoding R81), and the one pseudo-instruction `MAGIC` (R82). -/
inductive SourceLine where
  | mul32 (x y : SourceOperand)
  | smagic (d : SourceOperand)
  | umagic (d : SourceOperand)
  | modinv (d : SourceOperand)
  | magic (d : SourceOperand)
  deriving DecidableEq, Repr

end Sys2Proof
end

