-- ==== Sys2Proof/Decode.lean ====
section
/-! DEFINITION. The encodings of 30_encoding: command words (R71, R72, R75), response words (R74), and the opcode map in
both directions. Decoding a command word is total: "every one of the 2^130 command words selects exactly one command". -/

namespace Sys2Proof

/-- The 2-bit opcode numbers (30_encoding R72). -/
def opcodeBits : Opcode → BitVec 2
  | .mul32 => 0b00#2
  | .smagic => 0b01#2
  | .umagic => 0b10#2
  | .modinv => 0b11#2

/-- The command an opcode number selects (30_encoding R72, R75). -/
def opcodeOfBits (op : BitVec 2) : Opcode :=
  if op = 0b00#2 then .mul32
  else if op = 0b01#2 then .smagic
  else if op = 0b10#2 then .umagic
  else .modinv

/-- `cw[129:128]` (30_encoding R71). -/
def fieldOp (cw : CommandWord) : BitVec 2 := cw.extractLsb' 128 2

/-- `cw[127:64]` (30_encoding R71). -/
def fieldB (cw : CommandWord) : OperandWord := cw.extractLsb' 64 64

/-- `cw[63:0]` (30_encoding R71). -/
def fieldA (cw : CommandWord) : OperandWord := cw.extractLsb' 0 64

/-- The command with a given opcode and operand fields. -/
def instrOf (op : Opcode) (a b : OperandWord) : Instr :=
  match op with
  | .mul32 => .mul32 a b
  | .smagic => .smagic a b
  | .umagic => .umagic a b
  | .modinv => .modinv a b

/-- The command a command word selects (30_encoding R75). -/
def decode (cw : CommandWord) : Instr := instrOf (opcodeOfBits (fieldOp cw)) (fieldA cw) (fieldB cw)

/-- The command word `{op, b, a}` of a command (30_encoding R71, R81). -/
def encode (i : Instr) : CommandWord := opcodeBits i.opcode ++ i.operandB ++ i.operandA

/-- The decoder on a number whose bits are numbered as spec/opcode_table.json numbers them: bits at or above `nbits`
are 0, and a number that does not fit the 130-bit command channel is refused (notes/assumptions/14.md). -/
def decodeTableWord (nbits w : Nat) : Option Instr :=
  let bits := w % 2 ^ nbits
  if bits < 2 ^ 130 then some (decode (BitVec.ofNat 130 bits)) else none

/-- The 2-bit status codes (60_exceptions R201). -/
def statusBits : Status → BitVec 2
  | .ok => 0#2
  | .errRange => 1#2
  | .errDegenerate => 2#2
  | .errEven => 3#2

/-- The status a code stands for (60_exceptions R201): all four values are used. -/
def statusOfBits (code : BitVec 2) : Status :=
  if code = 0#2 then .ok
  else if code = 1#2 then .errRange
  else if code = 2#2 then .errDegenerate
  else .errEven

/-- `rw = {status[1:0], add, shift[5:0], value[31:0]}` (30_encoding R74). -/
def packResponse (r : Response) : ResponseWord :=
  statusBits r.status ++ BitVec.ofBool r.add ++ r.shift ++ r.value

/-- The fields of a response word (30_encoding R74). -/
def unpackResponse (rw : ResponseWord) : Response where
  status := statusOfBits (rw.extractLsb' 39 2)
  add := rw.getLsbD 38
  shift := rw.extractLsb' 32 6
  value := rw.extractLsb' 0 32

end Sys2Proof
end

