-- ==== Sys2Proof/Config.lean ====
section
/-! DEFINITION. The parameters of 00_scope R5 (every one is a constant of this hardware), the values the spec leaves
unspecified, and one bound of the model's own. `LATENCY` (R6) is read by no rule and has no place here. -/

namespace Sys2Proof.Config

/-- `W` (R5): width of multipliers, products, inverses and folded divisors. -/
def wordBits : Nat := 32

/-- `HALF` (R5): width of the halves UnsignedMul32 splits its operands into. -/
def halfBits : Nat := 16

/-- `OPW` (R5): width of a command operand. -/
def operandBits : Nat := 64

/-- `DIV_MIN` (R5): least divisor operand accepted. -/
def divMin : Int := -2 ^ 31

/-- `DIV_MAX` (R5, 90_conflicts C1): greatest divisor operand accepted. -/
def divMax : Int := 2 ^ 32 - 1

/-- `P0` (R5): the precision counter before the first iteration. -/
def p0 : Nat := 31

/-- `PCAP` (R5): UnsignedMagic starts another iteration only while `p` is below it. -/
def pCap : Nat := 64

/-- `NOPS` (R5): number of commands. -/
def commandCount : Nat := 4

/-- `SHW` (R5): width of the response's shift field. -/
def shiftBits : Nat := 6

/-- The value of the `k`-th register that RESET leaves unspecified, at the register's width (10_state R36: "any
value"). A free value: it has no body, so nothing can be proved of it. DESIGN CHOICE, notes/assumptions/3.md; safe. -/
opaque unspecified (width k : Nat) : BitVec width

/-- How many iterations the result functions of R10 try before they give up with `none`. The hardware has no such
bound (41_smagic R118, 43_modinv R175). DESIGN CHOICE, notes/assumptions/16.md; safe. -/
def loopFuel : Nat := 64

end Sys2Proof.Config
end

