-- ==== Sys2Proof/Machine/Flags.lean ====
section
/-! DEFINITION. The one-command flags (10_state R26): the add indicator's test, the loop conditions that decide when a
command ends, and the fields a response is made of (30_encoding R74, R83). There is no flag register. -/

namespace Sys2Proof.Machine

/-- UMAGIC's add test in one iteration, on the quotient before it is doubled (42_umagic R145 (b)). -/
def addRaised (preDoubledQ2 : Nat) : Bool := decide (2 ^ 31 ≤ preDoubledQ2)

/-- The search goes on: `q1 < delta or (q1 = delta and r1 = 0)` (41_smagic R115, 42_umagic R145, 90_conflicts C4). -/
def searchContinues (q1 r1 : Nat) (delta : Int) : Bool :=
  decide ((q1 : Int) < delta ∨ ((q1 : Int) = delta ∧ r1 = 0))

/-- UMAGIC's guard, tested after the increment of `p` (42_umagic R145 (d), 90_conflicts C6). -/
def underCap (p : Nat) : Bool := decide (p < Config.pCap)

/-- The `shift` field of a search that ended at `p`: `p - 32`, six bits (41_smagic R117, 42_umagic R146, 30_encoding R74). -/
def shiftField (p : Nat) : BitVec 6 := BitVec.ofInt 6 ((p : Int) - 32)

/-- SMAGIC's `value` (41_smagic R117): `M = q2 + 1`, or `2^32 - M` for a negative divisor. -/
def smagicValue (neg : Bool) (q2 : Nat) : Word :=
  let M : Int := (q2 : Int) + 1
  BitVec.ofInt 32 (if neg then 2 ^ 32 - M else M)

/-- UMAGIC's `value` (42_umagic R146): `lo32` of the ideal multiplier `q2 + 1`. -/
def umagicValue (q2 : Nat) : Word := BitVec.ofNat 32 (q2 + 1)

/-- The fields of a successful response (30_encoding R83). -/
def okResponse (add : Bool) (shift : BitVec 6) (value : Word) : Response :=
  { status := .ok, add := add, shift := shift, value := value }

/-- The fields of an error response (60_exceptions R204): the status alone. -/
def errorResponse (code : Status) : Response :=
  { status := code, add := false, shift := 0#6, value := 0#32 }

/-- SMAGIC's final response (41_smagic R117). -/
def smagicResponse (neg : Bool) (p q2 : Nat) : Response := okResponse false (shiftField p) (smagicValue neg q2)

/-- UMAGIC's final response (42_umagic R146). -/
def umagicResponse (af : Bool) (p q2 : Nat) : Response := okResponse af (shiftField p) (umagicValue q2)

/-- The response of MUL32 (40_mul32 R101) and of MODINV (43_modinv R173): a value and nothing else. -/
def valueResponse (value : Word) : Response := okResponse false 0#6 value

end Sys2Proof.Machine
end

