-- ==== Sys2Proof/Machine/Operands.lean ====
section
/-! DEFINITION. How operands are read: bit fields of integers (00_scope R8), the divisor's range check and folds
(30_encoding R76 to R78), each command's own domain condition (60_exceptions R201), and UnsignedMul32 (40_mul32 R100),
which reads its operands by halves. -/

namespace Sys2Proof.Machine

/-- `lo32(v) = v mod 2^32` (00_scope R8). -/
def lo32 (v : Int) : Nat := (v % 2 ^ 32).toNat

/-- `lo16(v) = v mod 2^16` (00_scope R8). -/
def lo16 (v : Int) : Nat := (v % 2 ^ Config.halfBits).toNat

/-- `hi16(v) = (v mod 2^32) div 2^16` (00_scope R8). -/
def hi16 (v : Int) : Nat := lo32 v / 2 ^ Config.halfBits

/-- The exact sum `s` of UnsignedMul32's three partial products (40_mul32 R100); `highX*highY` is omitted. -/
def mul32Sum (x y : Int) : Nat :=
  lo16 x * lo16 y + (hi16 x * lo16 y) * 2 ^ Config.halfBits + (lo16 x * hi16 y) * 2 ^ Config.halfBits

/-- `Mul32(x, y)` (40_mul32 R100): the low 32 bits of the sum of the partial products, for any two integers. -/
def mul32 (x y : Int) : Word := BitVec.ofNat 32 (mul32Sum x y)

/-- The range check on `av = sint_64(a)` (30_encoding R76, 90_conflicts C1). -/
def divisorInRange (a : OperandWord) : Bool := decide (Config.divMin ≤ a.toInt ∧ a.toInt ≤ Config.divMax)

/-- The effective divisor `D = a[31:0]` (30_encoding R76). -/
def effectiveDivisor (a : OperandWord) : Word := a.extractLsb' 0 32

/-- The signed fold of an in-range divisor (30_encoding R77, 90_conflicts C2). -/
def signedFold (av : Int) : Int := if 2 ^ 31 ≤ av then av - 2 ^ 32 else av

/-- The unsigned fold of an in-range divisor (30_encoding R78). -/
def unsignedFold (av : Int) : Int := if av < 0 then av + 2 ^ 32 else av

/-- SMAGIC's own domain condition on `d = sint_32(D)` (41_smagic R111). -/
def smagicDomainError (D : Word) : Option Status :=
  if D.toInt = -1 ∨ D.toInt = 0 ∨ D.toInt = 1 then some .errDegenerate else none

/-- UMAGIC's own domain condition on `du = D` (42_umagic R141). -/
def umagicDomainError (D : Word) : Option Status :=
  if D.toNat = 0 ∨ D.toNat = 1 then some .errDegenerate else none

/-- MODINV's own domain condition on `du = D` (43_modinv R171): `du[0] = 0`. -/
def modinvDomainError (D : Word) : Option Status :=
  if D.getLsbD 0 = false then some .errEven else none

/-- The error a divisor operand raises, if any: the range first, then the command's own condition
(60_exceptions R203). -/
def divisorError (own : Word → Option Status) (a : OperandWord) : Option Status :=
  if divisorInRange a then own (effectiveDivisor a) else some .errRange

end Sys2Proof.Machine
end

