-- ==== Sys2Proof/Machine/State.lean ====
section
/-! DEFINITION. The state of MAGICGEN (10_state R23 to R25) and of the host's side of the two word channels
(10_state R22 (a), 30_encoding R70, 70_reset R230), the reasons a step can stop, and the state after reset (R36). -/

namespace Sys2Proof.Machine

/-- `phase` (10_state R23). -/
inductive Phase where
  /-- no command in progress, no response pending -/
  | idle
  /-- a command's loop has not ended -/
  | busy
  /-- the response of the last accepted command is in RSP and has not been taken -/
  | resp
  deriving DecidableEq, Repr

/-- The working registers `W` (10_state R24), meaningful only in phase BUSY. All are unsigned; none aliases another. -/
structure Working where
  /-- `W.op`, 2 bits: the opcode of the command in progress -/
  op : Opcode
  /-- `W.neg`, 1 bit: the signed divisor is negative (SMAGIC) -/
  neg : Bool
  /-- `W.dv`: `ad` (SMAGIC), `du` (UMAGIC, MODINV) -/
  dv : Word
  /-- `W.nc`: `anc` (SMAGIC), `nc` (UMAGIC) -/
  nc : Word
  /-- `W.p`: the precision counter -/
  p : BitVec 7
  /-- `W.q1`: quotient of `2^p` by `W.nc` -/
  q1 : BitVec 64
  /-- `W.r1`: remainder of `2^p` by `W.nc` -/
  r1 : BitVec 64
  /-- `W.q2`: quotient of `2^p` by `ad` (SMAGIC), of `2^p - 1` by `du` (UMAGIC) -/
  q2 : BitVec 64
  /-- `W.r2`: the matching remainder -/
  r2 : BitVec 64
  /-- `W.af`, 1 bit: the add indicator so far (UMAGIC) -/
  af : Bool
  /-- `W.xn`: the current approximation of the inverse (MODINV) -/
  xn : Word
  /-- `W.t`: `Mul32(du, W.xn)` (MODINV) -/
  t : Word
  deriving DecidableEq, Repr

/-- The levels the host drives on its one-bit signals during one step (30_encoding R70, 70_reset R230). -/
structure HostLevels where
  /-- `rst`, active high -/
  rst : Bool
  /-- `cmd_valid` -/
  cmdValid : Bool
  /-- `rsp_ready` -/
  rspReady : Bool
  deriving DecidableEq, Repr

/-- The host's side of the channels, as plain data. How it is held is the model's choice, notes/assumptions/7.md. -/
structure HostSide where
  /-- the levels during the coming step -/
  levels : HostLevels
  /-- the levels during the steps after it; a level holds until the plan changes it -/
  plan : List HostLevels
  /-- the command words the host has still to issue; the first is on `cmd_word` (30_encoding R70) -/
  offers : List CommandWord
  /-- the accepted command word whose response the host waits for (60_exceptions R201, 20_memory R57) -/
  issued : Option CommandWord
  /-- the observation (10_state R35): pairs (command word accepted, response word taken), oldest first -/
  observed : List (CommandWord × ResponseWord)
  deriving DecidableEq, Repr

/-- The whole state. MAGICGEN itself is `phase`, `w` and `rsp`; there is no register file, no program counter, no flag,
control or status register and no memory (10_state R20, R21, R26, R27, 20_memory R50). -/
structure State where
  /-- `phase` (10_state R23) -/
  phase : Phase
  /-- the working registers `W` (10_state R24) -/
  w : Working
  /-- `RSP` (10_state R25), meaningful only in phase RESP -/
  rsp : ResponseWord
  /-- the host's side of the channels (10_state R22 (a)) -/
  host : HostSide
  /-- the model's own counter: which unspecified values RESET takes next (notes/assumptions/4.md) -/
  freeCount : Nat
  deriving DecidableEq, Repr

/-- Why a step can stop with a fault. -/
inductive Fault where
  /-- Raised by the engine's ITERATE in phase BUSY with `W.op` = MUL32, for which 10_state R30 has no iteration. No run
  reaches such a state (MUL32 never enters BUSY, 40_mul32 R101). DESIGN CHOICE, notes/assumptions/10.md; safe. -/
  | iterateWithoutLoop
  deriving DecidableEq, Repr

/-- Why a step can be refused. -/
inductive Refusal where
  /-- An instruction that has no meaning in the model, by its mnemonic. No arm of `exec` answers it; safe. -/
  | notModelled (mnemonic : String)
  deriving DecidableEq, Repr

/-- `cmd_ready` (30_encoding R70): true exactly in IDLE. -/
def State.cmdReady (s : State) : Bool := decide (s.phase = .idle)

/-- `rsp_valid` (30_encoding R70): true exactly in RESP. -/
def State.rspValid (s : State) : Bool := decide (s.phase = .resp)

/-- The working registers of `State.reset`: the spec leaves them unspecified (10_state R36), the model names zero.
DESIGN CHOICE, notes/assumptions/1.md; unsafe. -/
def Working.zero : Working where
  op := .mul32
  neg := false
  dv := 0#32
  nc := 0#32
  p := 0#7
  q1 := 0#64
  r1 := 0#64
  q2 := 0#64
  r2 := 0#64
  af := false
  xn := 0#32
  t := 0#32

/-- A host that drives nothing and has nothing to issue. DESIGN CHOICE, notes/assumptions/5.md; unsafe. -/
def HostSide.quiet : HostSide where
  levels := { rst := false, cmdValid := false, rspReady := false }
  plan := []
  offers := []
  issued := none
  observed := []

/-- The machine right after reset (10_state R36): `phase = IDLE`. The values of W and RSP are the model's
(notes/assumptions/1.md, 2.md); unsafe. -/
def State.reset : State where
  phase := .idle
  w := Working.zero
  rsp := 0#41
  host := HostSide.quiet
  freeCount := 0

end Sys2Proof.Machine
end

