-- ==== Sys2Proof/Machine/Ops.lean ====
section
/-! DEFINITION. The operations every command and step is made of: responding, raising a domain error and taking a
response (the exception entry and return of this hardware, 60_exceptions R204, R205), accepting a command (10_state R29),
RESET (70_reset R230), and the host's side of the channels (30_encoding R70). There are no memory operations. -/

namespace Sys2Proof.Machine

/-- The state with other working registers. -/
def State.withWorking (s : State) (w : Working) : State := { s with w := w }

/-- The state in another phase. -/
def State.withPhase (s : State) (phase : Phase) : State := { s with phase := phase }

/-- The state with another host side. -/
def State.withHost (s : State) (host : HostSide) : State := { s with host := host }

/-- `W.op <- op` (10_state R29). -/
def State.withOp (s : State) (op : Opcode) : State := s.withWorking { s.w with op := op }

/-- `respond(...)` (00_scope R9): all 41 bits of RSP at once (10_state R25), and `phase <- RESP`. -/
def respond (r : Response) (s : State) : State := { s with rsp := packResponse r, phase := .resp }

/-- `raise DomainError(code)` (00_scope R9, 60_exceptions R204): the machine's one way to take an exception. -/
def raiseDomainError (code : Status) (s : State) : State := respond (errorResponse code) s

/-- What the host receives in a TAKE: RSP joins the observation, paired with the command word it answers
(10_state R31, R35, 20_memory R57; notes/assumptions/18.md). -/
def receiveResponse (rw : ResponseWord) (h : HostSide) : HostSide :=
  match h.issued with
  | some cw => { h with issued := none, observed := h.observed ++ [(cw, rw)] }
  | none => h

/-- Step TAKE (10_state R31), after an error as after an `OK` response (60_exceptions R205): the host receives RSP and
`phase <- IDLE`; W and RSP are not cleared. -/
def takeResponse (s : State) : State := (s.withHost (receiveResponse s.rsp s.host)).withPhase .idle

/-- Step ACCEPT of a command with opcode `op` (10_state R29): enabled in IDLE alone, it writes `W.op` and then does what
the command does at once. In BUSY and RESP the command is held off and nothing changes (20_memory R54;
notes/assumptions/9.md). -/
def acceptCommand (op : Opcode) (start : State → State) (s : State) : Host.Outcome State Fault Refusal :=
  if s.phase = .idle then .next (start (s.withOp op)) else .next s

/-- What ACCEPT of a divisor command does after `W.op <- op` (10_state R29): the operand check, then either the domain
error or the command's own initial values and `phase <- BUSY`. -/
def startDivisorCommand (own : Word → Option Status) (load : Word → Working → Working) (a : OperandWord) (s : State) :
    State :=
  match divisorError own a with
  | some code => raiseDomainError code s
  | none => (s.withWorking (load (effectiveDivisor a) s.w)).withPhase .busy

/-- The values RESET leaves in the working registers: unspecified (10_state R36), so free, each register its own
(notes/assumptions/3.md). -/
def unspecifiedWorking (k : Nat) : Working where
  op := opcodeOfBits (Config.unspecified 2 k)
  neg := (Config.unspecified 1 (k + 1)).getLsbD 0
  dv := Config.unspecified 32 (k + 2)
  nc := Config.unspecified 32 (k + 3)
  p := Config.unspecified 7 (k + 4)
  q1 := Config.unspecified 64 (k + 5)
  r1 := Config.unspecified 64 (k + 6)
  q2 := Config.unspecified 64 (k + 7)
  r2 := Config.unspecified 64 (k + 8)
  af := (Config.unspecified 1 (k + 9)).getLsbD 0
  xn := Config.unspecified 32 (k + 10)
  t := Config.unspecified 32 (k + 11)

/-- Step RESET (70_reset R230): `phase <- IDLE`, W and RSP unspecified. The command in progress or the pending response
is lost, so the host waits for no response any more (notes/assumptions/18.md). -/
def resetMachine (s : State) : State where
  phase := .idle
  w := unspecifiedWorking s.freeCount
  rsp := Config.unspecified 41 (s.freeCount + 12)
  host := { s.host with issued := none }
  freeCount := s.freeCount + 13

/-- The command word on the command channel in this step, if `cmd_valid` (30_encoding R70). -/
def offeredWord (h : HostSide) : Option CommandWord := if h.levels.cmdValid then h.offers.head? else none

/-- The host's side once its first command word has been accepted: the word is no longer offered, and the host waits for
its response (20_memory R57). -/
def commandAccepted (cw : CommandWord) (h : HostSide) : HostSide :=
  { h with offers := h.offers.tail, issued := some cw }

/-- The host's levels for the next step: the plan's next entry, or the present levels where the plan is at its end. -/
def advanceLevels (h : HostSide) : HostSide :=
  match h.plan with
  | [] => h
  | l :: rest => { h with levels := l, plan := rest }

/-- The end of a step: the host's levels move on (notes/assumptions/7.md). -/
def endStep (s : State) : State := s.withHost (advanceLevels s.host)

/-- The step of an accepted command word once its command has had its effect. -/
def endAccept (cw : CommandWord) (s : State) : State := endStep (s.withHost (commandAccepted cw s.host))

/-- A next state changed by `f`; a fault and a refusal as they are. -/
def mapNext (f : State → State) : Host.Outcome State Fault Refusal → Host.Outcome State Fault Refusal
  | .next s => .next (f s)
  | .fault r => .fault r
  | .refused r => .refused r

end Sys2Proof.Machine
end

