-- ==== Sys2Proof/Machine/Modinv.lean ====
section
/-! DEFINITION. The command MODINV (43_modinv R170 to R173): the Newton-iteration inverse of an odd divisor. -/

namespace Sys2Proof.Machine

/-- `W.dv`, `W.xn` and `W.t` (43_modinv R172), for an effective divisor that passed the checks. -/
def loadModinv (D : Word) (w : Working) : Working :=
  { w with dv := D, xn := D, t := mul32 D.toNat D.toNat }

/-- `MODINV d`, step ACCEPT (10_state R29, 43_modinv R170 to R172). The operand `b` is ignored (30_encoding R73). -/
def execModinv (a _b : OperandWord) (s : State) : Host.Outcome State Fault Refusal :=
  acceptCommand .modinv (startDivisorCommand modinvDomainError loadModinv a) s

/-- The next approximation `Mul32(xn, 2 - t)` (43_modinv R173); `2 - t` is an exact integer. -/
def newtonUpdate (xn t : Word) : Word := mul32 xn.toNat (2 - (t.toNat : Int))

/-- `MODINV`, step ITERATE (43_modinv R173): respond once `W.t = 1`, else update `W.xn` and take the new `W.t` from the
new `W.xn`. -/
def iterateModinv (s : State) : State :=
  if s.w.t = 1#32 then respond (valueResponse s.w.xn) s
  else
    let xn := newtonUpdate s.w.xn s.w.t
    s.withWorking { s.w with xn := xn, t := mul32 s.w.dv.toNat xn.toNat }

end Sys2Proof.Machine
end

