-- ==== Sys2Proof/Machine/Mul32.lean ====
section
/-! DEFINITION. The command MUL32 (40_mul32 R101): the 32×32→32-bit modular multiplier. -/

namespace Sys2Proof.Machine

/-- `MUL32 x, y` (40_mul32 R101): completes in the ACCEPT step with `respond(0, 0, 0, Mul32(a, b))`; no error. -/
def execMul32 (a b : OperandWord) (s : State) : Host.Outcome State Fault Refusal :=
  acceptCommand .mul32 (respond (valueResponse (mul32 a.toInt b.toInt))) s

end Sys2Proof.Machine
end

