-- ==== Sys2Proof/Machine/Search.lean ====
section
/-! DEFINITION. The search SMAGIC and UMAGIC share: the precision counter and the two quotient and remainder pairs, how
they start (41_smagic R114, 42_umagic R144), how one iteration doubles them (41_smagic R115, 42_umagic R145), and how
they are read from and written to the working registers. -/

namespace Sys2Proof.Machine

/-- The integers a search works on (00_scope R7). -/
structure Search where
  p : Nat
  q1 : Nat
  r1 : Nat
  q2 : Nat
  r2 : Nat
  deriving DecidableEq, Repr

/-- One doubling of a quotient and remainder by `n`: `q <- 2*q; r <- 2*r + c; if r >= n then (q <- q + 1; r <- r - n)`
(41_smagic R115 with `c = 0`; 42_umagic R145 (a) with `c = 1` for the second pair). -/
def doublePair (n c q r : Nat) : Nat × Nat :=
  if n ≤ 2 * r + c then (2 * q + 1, 2 * r + c - n) else (2 * q, 2 * r + c)

/-- The search before its first iteration: `2^31` by `bound`, and `dividend` by `divisor`; the divisions are exact
integer divisions (41_smagic R114, 42_umagic R144, 70_reset R239 (b)). -/
def searchStart (bound divisor dividend : Nat) : Search where
  p := Config.p0
  q1 := 2 ^ 31 / bound
  r1 := 2 ^ 31 - 2 ^ 31 / bound * bound
  q2 := dividend / divisor
  r2 := dividend - dividend / divisor * divisor

/-- One iteration's doubling of both pairs (41_smagic R115, 42_umagic R145); `carry` is what the second remainder takes
in. -/
def searchDouble (bound divisor carry : Nat) (x : Search) : Search where
  p := x.p + 1
  q1 := (doublePair bound 0 x.q1 x.r1).1
  r1 := (doublePair bound 0 x.q1 x.r1).2
  q2 := (doublePair divisor carry x.q2 x.r2).1
  r2 := (doublePair divisor carry x.q2 x.r2).2

/-- The working registers read as a search. -/
def searchOf (w : Working) : Search where
  p := w.p.toNat
  q1 := w.q1.toNat
  r1 := w.r1.toNat
  q2 := w.q2.toNat
  r2 := w.r2.toNat

/-- A search written to the working registers, each value narrowed to its register's width (10_state R24;
notes/assumptions/11.md). -/
def storeSearch (x : Search) (w : Working) : Working :=
  { w with
    p := BitVec.ofNat 7 x.p
    q1 := BitVec.ofNat 64 x.q1
    r1 := BitVec.ofNat 64 x.r1
    q2 := BitVec.ofNat 64 x.q2
    r2 := BitVec.ofNat 64 x.r2 }

/-- The search of a working register set, doubled once with the bound and divisor in `W.nc` and `W.dv`. -/
def doubleRegisters (carry : Nat) (w : Working) : Working :=
  storeSearch (searchDouble w.nc.toNat w.dv.toNat carry (searchOf w)) w

/-- SMAGIC's bound `anc = t - 1 - (t mod ad)` with `t = 2^31`, plus 1 for a negative divisor (41_smagic R113,
90_conflicts C3). -/
def smagicBound (neg : Bool) (ad : Nat) : Nat :=
  let t := 2 ^ 31 + neg.toNat
  t - 1 - t % ad

/-- UMAGIC's bound `nc = 2^32 - 1 - ((2^32 - du) mod du)` (42_umagic R143). -/
def umagicBound (du : Nat) : Nat := 2 ^ 32 - 1 - (2 ^ 32 - du) % du

/-- SMAGIC's `delta = ad - r2` (41_smagic R115). -/
def smagicDelta (ad r2 : Nat) : Int := (ad : Int) - r2

/-- UMAGIC's `delta = du - 1 - r2` (42_umagic R145 (c)). -/
def umagicDelta (du r2 : Nat) : Int := (du : Int) - 1 - r2

end Sys2Proof.Machine
end

