-- ==== Sys2Proof/Machine/Smagic.lean ====
section
/-! DEFINITION. The command SMAGIC (41_smagic R110 to R117): the signed magic-multiplier generator. -/

namespace Sys2Proof.Machine

/-- `W.neg`, `W.dv`, `W.nc` and the start of the search (41_smagic R112 to R114), for an effective divisor that passed
the checks. -/
def loadSmagic (D : Word) (w : Working) : Working :=
  let neg := decide (D.toInt < 0)
  let ad := D.toInt.natAbs
  let anc := smagicBound neg ad
  storeSearch (searchStart anc ad (2 ^ 31))
    { w with neg := neg, dv := BitVec.ofNat 32 ad, nc := BitVec.ofNat 32 anc }

/-- `SMAGIC d`, step ACCEPT (10_state R29, 41_smagic R110 to R114). The operand `b` is ignored (30_encoding R73). -/
def execSmagic (a _b : OperandWord) (s : State) : Host.Outcome State Fault Refusal :=
  acceptCommand .smagic (startDivisorCommand smagicDomainError loadSmagic a) s

/-- `SMAGIC`, step ITERATE (41_smagic R115): double both pairs, then go on or finish (R117). -/
def iterateSmagic (s : State) : State :=
  let s' := s.withWorking (doubleRegisters 0 s.w)
  if searchContinues s'.w.q1.toNat s'.w.r1.toNat (smagicDelta s'.w.dv.toNat s'.w.r2.toNat) then s'
  else respond (smagicResponse s'.w.neg s'.w.p.toNat s'.w.q2.toNat) s'

end Sys2Proof.Machine
end

