-- ==== Sys2Proof/Machine/Umagic.lean ====
section
/-! DEFINITION. The command UMAGIC (42_umagic R140 to R146): the unsigned magic-multiplier generator. -/

namespace Sys2Proof.Machine

/-- `W.dv`, `W.nc`, `W.af` and the start of the search (42_umagic R142 to R144), for an effective divisor that passed
the checks. `W.neg` is not used. -/
def loadUmagic (D : Word) (w : Working) : Working :=
  let nc := umagicBound D.toNat
  storeSearch (searchStart nc D.toNat (2 ^ 31 - 1)) { w with dv := D, nc := BitVec.ofNat 32 nc, af := false }

/-- `UMAGIC d`, step ACCEPT (10_state R29, 42_umagic R140 to R144). The operand `b` is ignored (30_encoding R73). -/
def execUmagic (a _b : OperandWord) (s : State) : Host.Outcome State Fault Refusal :=
  acceptCommand .umagic (startDivisorCommand umagicDomainError loadUmagic a) s

/-- `UMAGIC`, step ITERATE (42_umagic R145): the add test on the quotient before it is doubled, both pairs doubled with
the second remainder taking in 1, then go on under the guard `p < 64` or finish (R146). -/
def iterateUmagic (s : State) : State :=
  let w := doubleRegisters 1 s.w
  let s' := s.withWorking { w with af := s.w.af || addRaised s.w.q2.toNat }
  if underCap s'.w.p.toNat &&
      searchContinues s'.w.q1.toNat s'.w.r1.toNat (umagicDelta s'.w.dv.toNat s'.w.r2.toNat) then s'
  else respond (umagicResponse s'.w.af s'.w.p.toNat s'.w.q2.toNat) s'

end Sys2Proof.Machine
end

