-- ==== Sys2Proof/Machine/Dispatch.lean ====
section
/-! DEFINITION. The command dispatch of 10_state R29: what ACCEPT of each command does. -/

namespace Sys2Proof.Machine

def exec (i : Instr) (s : State) : Host.Outcome State Fault Refusal :=
  match i with
  | .mul32 a b => Sys2Proof.Machine.execMul32 a b s
  | .smagic a b => Sys2Proof.Machine.execSmagic a b s
  | .umagic a b => Sys2Proof.Machine.execUmagic a b s
  | .modinv a b => Sys2Proof.Machine.execModinv a b s

end Sys2Proof.Machine
end

