-- ==== Sys2Proof/Machine/Engine.lean ====
section
/-! DEFINITION. The engine: step ITERATE of the command in progress (10_state R30), and its iterations one after the
other until it responds. -/

namespace Sys2Proof.Machine

/-- Step ITERATE (10_state R30): one loop iteration of the command `W.op`. MUL32 has none. -/
def iterate (s : State) : Host.Outcome State Fault Refusal :=
  match s.w.op with
  | .mul32 => .fault .iterateWithoutLoop
  | .smagic => .next (iterateSmagic s)
  | .umagic => .next (iterateUmagic s)
  | .modinv => .next (iterateModinv s)

/-- The state after exactly `k` ITERATE steps, each taken in BUSY, if the last of them leads to RESP (10_state R30, R32).
The step counts of 70_reset R240 are said with it. -/
def runEngine : Nat → State → Option State
  | 0, s => if s.phase = .resp then some s else none
  | k + 1, s =>
    if s.phase = .busy then
      match iterate s with
      | .next s' => runEngine k s'
      | _ => none
    else none

end Sys2Proof.Machine
end

