-- ==== Sys2Proof/Machine/Step.lean ====
section
/-! DEFINITION. One step of the machine: RESET (70_reset R230), ACCEPT, ITERATE or TAKE (10_state R29 to R31), whichever
the phase and the host's levels enable; where none is enabled, MAGICGEN stays as it is (notes/assumptions/6.md). -/

namespace Sys2Proof.Machine

/-- One step. RESET wins over the others (notes/assumptions/8.md). Of ACCEPT, ITERATE and TAKE at most one is enabled,
each in its own phase (10_state R22). After each step the host's levels move on. -/
def step (s : State) : Host.Outcome State Fault Refusal :=
  if s.host.levels.rst then .next (endStep (resetMachine s))
  else
    match s.phase with
    | .idle =>
      match offeredWord s.host with
      | some cw => mapNext (endAccept cw) (exec (decode cw) s)
      | none => .next (endStep s)
    | .busy => mapNext endStep (iterate s)
    | .resp => if s.host.levels.rspReady then .next (endStep (takeResponse s)) else .next (endStep s)

/-- The state in which the very next step accepts the command word whose bits are `w`: MAGICGEN is IDLE and not in
reset, and the host offers that word (notes/assumptions/14.md). -/
def State.withFetchWord (s : State) (nbits w : Nat) : State :=
  { s with
    phase := .idle
    host :=
      { s.host with
        levels := { s.host.levels with rst := false, cmdValid := true }
        offers := BitVec.ofNat 130 (w % 2 ^ nbits) :: s.host.offers } }

end Sys2Proof.Machine
end

