-- ==== Sys2Proof/WellFormed.lean ====
section
/-! DEFINITION. What is well formed. There are no illegal command words (30_encoding R79), so a command is well formed
whatever its operand fields hold; responses (R79, R83, 93 U13) and source operands (R81) have real checks. -/

namespace Sys2Proof

/-- Every command is well formed: "the operand fields accept every bit pattern" (30_encoding R79). -/
def Instr.wellFormed : Instr → Bool
  | .mul32 _ _ => true
  | .smagic _ _ => true
  | .umagic _ _ => true
  | .modinv _ _ => true

/-- A response MAGICGEN can produce (30_encoding R79, R74): the shift is at most 32, and an error carries nothing but
its status. -/
def Response.wellFormed (r : Response) : Bool :=
  decide (r.shift.toNat ≤ 32) &&
    (decide (r.status = .ok) || (!r.add && decide (r.shift = 0#6) && decide (r.value = 0#32)))

/-- A source operand in the range of a 64-bit word (30_encoding R81). -/
def SourceOperand.wellFormed : SourceOperand → Bool
  | .decimal v => decide (-2 ^ 63 ≤ v ∧ v ≤ 2 ^ 63 - 1)
  | .hex n => decide (n ≤ 0xFFFFFFFFFFFFFFFF)

/-- A source line whose operands are all in range (30_encoding R81). -/
def SourceLine.wellFormed : SourceLine → Bool
  | .mul32 x y => x.wellFormed && y.wellFormed
  | .smagic d => d.wellFormed
  | .umagic d => d.wellFormed
  | .modinv d => d.wellFormed
  | .magic d => d.wellFormed

end Sys2Proof
end

