-- ==== Sys2Proof/Machine/Assembler.lean ====
section
/-! DEFINITION. The host's text: the assembler syntax of 30_encoding R81, the pseudo-instruction MAGIC (R82), and the
caller's duties (70_reset R236). Text is a list of characters. MAGICGEN itself reads no text. What R81 leaves open (letter
case, blanks, comments) is fixed in notes/assumptions/15.md. -/

namespace Sys2Proof.Machine

/-- The 64-bit word of a source operand (30_encoding R81): two's complement, or the bit pattern of a `0x` literal. -/
def operandWord : SourceOperand → OperandWord
  | .decimal v => BitVec.ofInt 64 v
  | .hex n => BitVec.ofNat 64 n

/-- The commands a source line stands for: one, or for `MAGIC d` the host's standard sequence (30_encoding R82), with
MODINV only if `d` is odd. The unused operand is 0 (R81). -/
def expandLine : SourceLine → List Instr
  | .mul32 x y => [.mul32 (operandWord x) (operandWord y)]
  | .smagic d => [.smagic (operandWord d) 0#64]
  | .umagic d => [.umagic (operandWord d) 0#64]
  | .modinv d => [.modinv (operandWord d) 0#64]
  | .magic d =>
    let a := operandWord d
    [.smagic a 0#64, .umagic a 0#64] ++ (if a.toInt % 2 = 1 then [.modinv a 0#64] else [])

/-- The command words of a source line whose operands are in range (30_encoding R81). -/
def assembleLine (line : SourceLine) : Option (List CommandWord) :=
  if line.wellFormed then some ((expandLine line).map encode) else none

/-- The value of a decimal digit. -/
def decimalDigit (c : Char) : Option Nat :=
  if 48 ≤ c.toNat ∧ c.toNat ≤ 57 then some (c.toNat - 48) else none

/-- The value of a hexadecimal digit, either letter case. -/
def hexDigit (c : Char) : Option Nat :=
  if 48 ≤ c.toNat ∧ c.toNat ≤ 57 then some (c.toNat - 48)
  else if 65 ≤ c.toNat ∧ c.toNat ≤ 70 then some (c.toNat - 55)
  else if 97 ≤ c.toNat ∧ c.toNat ≤ 102 then some (c.toNat - 87)
  else none

/-- The value of digits read from the left after `acc`. -/
def digitsFrom (base : Nat) (digit : Char → Option Nat) : List Char → Nat → Option Nat
  | [], acc => some acc
  | c :: cs, acc =>
    match digit c with
    | some v => digitsFrom base digit cs (base * acc + v)
    | none => none

/-- The value of one or more digits. -/
def digitsValue (base : Nat) (digit : Char → Option Nat) : List Char → Option Nat
  | [] => none
  | c :: cs => digitsFrom base digit (c :: cs) 0

/-- A decimal integer with an optional sign (30_encoding R81, 70_reset R236). -/
def parseDecimal : List Char → Option Int
  | '+' :: cs => (digitsValue 10 decimalDigit cs).map fun n => (n : Int)
  | '-' :: cs => (digitsValue 10 decimalDigit cs).map fun n => -(n : Int)
  | cs => (digitsValue 10 decimalDigit cs).map fun n => (n : Int)

/-- A source operand (30_encoding R81): a decimal integer or a `0x` literal. -/
def parseOperand : List Char → Option SourceOperand
  | '0' :: 'x' :: cs => (digitsValue 16 hexDigit cs).map .hex
  | cs => (parseDecimal cs).map .decimal

/-- A blank: a space or a tab. -/
def isBlank (c : Char) : Bool := c = ' ' || c = '\t'

/-- The token read so far, if any, before `rest`; it is held in reverse. -/
def flushToken (token : List Char) (rest : List (List Char)) : List (List Char) :=
  match token with
  | [] => rest
  | c :: cs => (c :: cs).reverse :: rest

/-- The tokens of a line: runs of characters between blanks, each comma by itself, nothing after a semicolon. -/
def tokens : List Char → List Char → List (List Char)
  | [], token => flushToken token []
  | c :: cs, token =>
    if c = ';' then flushToken token []
    else if isBlank c then flushToken token (tokens cs [])
    else if c = ',' then flushToken token ([','] :: tokens cs [])
    else tokens cs (c :: token)

/-- A line with one operand. -/
def parseOne (make : SourceOperand → SourceLine) (operand : List Char) : Option SourceLine :=
  (parseOperand operand).map make

/-- A source line (30_encoding R81, R82). -/
def parseLine (line : List Char) : Option SourceLine :=
  match tokens line [] with
  | [['M', 'U', 'L', '3', '2'], x, [','], y] =>
    match parseOperand x, parseOperand y with
    | some vx, some vy => some (.mul32 vx vy)
    | _, _ => none
  | [['S', 'M', 'A', 'G', 'I', 'C'], d] => parseOne .smagic d
  | [['U', 'M', 'A', 'G', 'I', 'C'], d] => parseOne .umagic d
  | [['M', 'O', 'D', 'I', 'N', 'V'], d] => parseOne .modinv d
  | [['M', 'A', 'G', 'I', 'C'], d] => parseOne .magic d
  | _ => none

/-- A source line's text to its command words. -/
def assembleText (line : List Char) : Option (List CommandWord) := (parseLine line).bind assembleLine

/-- A hexadecimal digit's character, upper case as in 95_test_vectors. -/
def hexChar (v : Nat) : Char := if v < 10 then Char.ofNat (48 + v) else Char.ofNat (55 + v)

/-- A number below 100 in decimal, without leading zeros. -/
def decimalText (n : Nat) : List Char :=
  if n < 10 then [Char.ofNat (48 + n)] else [Char.ofNat (48 + n / 10), Char.ofNat (48 + n % 10)]

/-- A response as text (30_encoding R81): `-> status=<n> add=<n> shift=<n> value=0x<8 hex digits>`. -/
def responseText (r : Response) : List Char :=
  ['-', '>', ' ', 's', 't', 'a', 't', 'u', 's', '='] ++ decimalText (statusBits r.status).toNat ++
    [' ', 'a', 'd', 'd', '='] ++ decimalText r.add.toNat ++
    [' ', 's', 'h', 'i', 'f', 't', '='] ++ decimalText r.shift.toNat ++
    [' ', 'v', 'a', 'l', 'u', 'e', '=', '0', 'x'] ++
    [7, 6, 5, 4, 3, 2, 1, 0].map fun k => hexChar (r.value.toNat / 16 ^ k % 16)

/-- The caller's parse of a divisor (70_reset R236): a signed decimal string, optionally surrounded by blanks. -/
def callerParse (text : List Char) : Option Int :=
  parseDecimal ((text.dropWhile isBlank).reverse.dropWhile isBlank).reverse

/-- The caller's checks on a divisor (70_reset R236): magnitude above 1 and inside `[-2^31, 2^32 - 1]`. -/
def callerAccepts (v : Int) : Bool := decide (1 < v.natAbs ∧ Config.divMin ≤ v ∧ v ≤ Config.divMax)

/-- What a caller that does its duties issues for a divisor (70_reset R236, 30_encoding R82). -/
def callerCommands (v : Int) : List Instr := if callerAccepts v then expandLine (.magic (.decimal v)) else []

end Sys2Proof.Machine
end

