-- ==== Sys2Proof/Machine/Consumer.lean ====
section
/-! DEFINITION. What the results mean: the high multiplies of 00_scope R11, the true multipliers and quotients of
44_laws R186 and R188, the consumer's 32-bit sequences (R190), and the stop conditions of the closed forms (41_smagic
R120, 42_umagic R151). None of it is part of MAGICGEN; the laws are stated with it. -/

namespace Sys2Proof.Machine

/-- `mulhs(a, b) = floor(sint_32(a) * sint_32(b) / 2^32)` (00_scope R11), as a word. -/
def mulhs (a b : Word) : Word := BitVec.ofInt 32 (a.toInt * b.toInt / 2 ^ 32)

/-- `mulhu(a, b) = floor(a * b / 2^32)` (00_scope R11), as a word. -/
def mulhu (a b : Word) : Word := BitVec.ofNat 32 (a.toNat * b.toNat / 2 ^ 32)

/-- The true multiplier of the signed law (44_laws R186). -/
def signedTrueMultiplier (d : Int) (value : Word) : Int := if 0 < d then value.toNat else (value.toNat : Int) - 2 ^ 32

/-- The signed law's quotient (44_laws R186): `q0 + (1 if q0 < 0 else 0)` with `q0 = floor(Mt * n / 2^(32 + shift))`. -/
def signedLawQuotient (d : Int) (value : Word) (shift : Nat) (n : Int) : Int :=
  let q0 := signedTrueMultiplier d value * n / 2 ^ (32 + shift)
  q0 + (if q0 < 0 then 1 else 0)

/-- The true multiplier of the unsigned law (44_laws R188). -/
def unsignedTrueMultiplier (value : Word) (add : Bool) : Nat := value.toNat + 2 ^ 32 * add.toNat

/-- The unsigned law's quotient (44_laws R188): `floor(Mt * n / 2^(32 + shift))`. -/
def unsignedLawQuotient (value : Word) (add : Bool) (shift : Nat) (n : Nat) : Nat :=
  unsignedTrueMultiplier value add * n / 2 ^ (32 + shift)

/-- The consumer's signed sequence in 32-bit words (44_laws R190). -/
def signedSequence (d : Int) (value : Word) (shift : Nat) (n : Word) : Word :=
  let h := mulhs value n
  let added := if 0 < d ∧ value.toInt < 0 then h + n else h
  let adjusted := if d < 0 ∧ 0 < value.toInt then added - n else added
  let q := adjusted.sshiftRight shift
  q + q >>> (31 : Nat)

/-- The consumer's unsigned sequence in 32-bit words (44_laws R190). -/
def unsignedSequence (value : Word) (add : Bool) (shift : Nat) (n : Word) : Word :=
  let h := mulhu value n
  if add then (((n - h) >>> (1 : Nat)) + h) >>> (shift - 1) else h >>> shift

/-- `2^p > anc * delta(p)` with `delta(p) = ad - (2^p mod ad)`: SMAGIC's stop condition (41_smagic R120). -/
def smagicStopsAt (neg : Bool) (ad p : Nat) : Prop := smagicBound neg ad * (ad - 2 ^ p % ad) < 2 ^ p

/-- `2^p > nc * delta(p)` with `delta(p) = du - 1 - ((2^p - 1) mod du)`: UMAGIC's stop condition (42_umagic R151). -/
def umagicStopsAt (du p : Nat) : Prop := umagicBound du * (du - 1 - (2 ^ p - 1) % du) < 2 ^ p

/-- `p` is the least number from `low` on with the property `stops`. -/
def IsLeastFrom (low : Nat) (stops : Nat → Prop) (p : Nat) : Prop :=
  low ≤ p ∧ stops p ∧ ∀ k, low ≤ k → k < p → ¬ stops k

end Sys2Proof.Machine
end

