-- ==== Sys2Proof/Machine/ResultFunctions.lean ====
section
/-! DEFINITION. The result functions of 00_scope R10: the pure function each command is, over exact integers, and
`Exec(cw)` (30_encoding R75). The machine's steps and these functions are the spec's two levels (10_state R32). A loop
that has not ended within `Config.loopFuel` iterations answers `none` (notes/assumptions/16.md). -/

namespace Sys2Proof.Machine

/-- `ExecMUL32(a, b)` (40_mul32 R101). -/
def resultMul32 (a b : OperandWord) : Response := valueResponse (mul32 a.toInt b.toInt)

/-- The `repeat` loop of `ExecSMAGIC` (41_smagic R110). -/
def smagicLoop (neg : Bool) (ad anc : Nat) : Nat → Search → Option Response
  | 0, _ => none
  | fuel + 1, x =>
    let y := searchDouble anc ad 0 x
    if searchContinues y.q1 y.r1 (smagicDelta ad y.r2) then smagicLoop neg ad anc fuel y
    else some (smagicResponse neg y.p y.q2)

/-- `ExecSMAGIC(a)` (41_smagic R110). -/
def resultSmagic (a : OperandWord) : Option Response :=
  match divisorError smagicDomainError a with
  | some code => some (errorResponse code)
  | none =>
    let d := (effectiveDivisor a).toInt
    let neg := decide (d < 0)
    let ad := d.natAbs
    let anc := smagicBound neg ad
    smagicLoop neg ad anc Config.loopFuel (searchStart anc ad (2 ^ 31))

/-- The `repeat` loop of `ExecUMAGIC` (42_umagic R140). -/
def umagicLoop (du nc : Nat) : Nat → Bool → Search → Option Response
  | 0, _, _ => none
  | fuel + 1, af, x =>
    let y := searchDouble nc du 1 x
    let af' := af || addRaised x.q2
    if underCap y.p && searchContinues y.q1 y.r1 (umagicDelta du y.r2) then umagicLoop du nc fuel af' y
    else some (umagicResponse af' y.p y.q2)

/-- `ExecUMAGIC(a)` (42_umagic R140). -/
def resultUmagic (a : OperandWord) : Option Response :=
  match divisorError umagicDomainError a with
  | some code => some (errorResponse code)
  | none =>
    let du := (effectiveDivisor a).toNat
    let nc := umagicBound du
    umagicLoop du nc Config.loopFuel false (searchStart nc du (2 ^ 31 - 1))

/-- The `while` loop of `ExecMODINV` (43_modinv R170). -/
def modinvLoop (du : Word) : Nat → Word → Word → Option Response
  | 0, _, _ => none
  | fuel + 1, xn, t =>
    if t = 1#32 then some (valueResponse xn)
    else
      let xn' := newtonUpdate xn t
      modinvLoop du fuel xn' (mul32 du.toNat xn'.toNat)

/-- `ExecMODINV(a)` (43_modinv R170). -/
def resultModinv (a : OperandWord) : Option Response :=
  match divisorError modinvDomainError a with
  | some code => some (errorResponse code)
  | none =>
    let du := effectiveDivisor a
    modinvLoop du Config.loopFuel du (mul32 du.toNat du.toNat)

/-- The result function of a command. -/
def resultOfInstr : Instr → Option Response
  | .mul32 a b => some (resultMul32 a b)
  | .smagic a _ => resultSmagic a
  | .umagic a _ => resultUmagic a
  | .modinv a _ => resultModinv a

/-- `Exec(cw)` (30_encoding R75), as a response word. -/
def execWord (cw : CommandWord) : Option ResponseWord := (resultOfInstr (decode cw)).map packResponse

end Sys2Proof.Machine
end

