-- ==== Sys2Proof/Safety.lean ====
section
/-! DEFINITION. What holds in every state MAGICGEN can be in: the invariants of the loops (41_smagic R116, 42_umagic
R147, R148, 43_modinv R172 to R175) in phase BUSY, the answer in RSP in phase RESP, and the observation (10_state R35). -/

namespace Sys2Proof.Machine

/-- SMAGIC in progress: the registers' ranges and bounds (41_smagic R112, R113, R118), the invariant R116, and no stop
condition met yet (R120). -/
structure SmagicBusy (w : Working) : Prop where
  dv_low : 2 ≤ w.dv.toNat
  dv_high : w.dv.toNat + 1 ≤ 2 ^ 31 + w.neg.toNat
  bound : w.nc.toNat = smagicBound w.neg w.dv.toNat
  p_low : 31 ≤ w.p.toNat
  p_high : w.p.toNat ≤ 61
  quotient1 : w.q1.toNat = 2 ^ w.p.toNat / w.nc.toNat
  remainder1 : w.r1.toNat = 2 ^ w.p.toNat % w.nc.toNat
  quotient2 : w.q2.toNat = 2 ^ w.p.toNat / w.dv.toNat
  remainder2 : w.r2.toNat = 2 ^ w.p.toNat % w.dv.toNat
  not_stopped : ∀ k, 32 ≤ k → k ≤ w.p.toNat → ¬ smagicStopsAt w.neg w.dv.toNat k

/-- UMAGIC in progress: the registers' ranges and bounds (42_umagic R142, R143, R149), the invariant R147, the add
indicator (R148), and no stop condition met yet (R151). -/
structure UmagicBusy (w : Working) : Prop where
  dv_low : 2 ≤ w.dv.toNat
  bound : w.nc.toNat = umagicBound w.dv.toNat
  p_low : 31 ≤ w.p.toNat
  p_high : w.p.toNat ≤ 63
  quotient1 : w.q1.toNat = 2 ^ w.p.toNat / w.nc.toNat
  remainder1 : w.r1.toNat = 2 ^ w.p.toNat % w.nc.toNat
  quotient2 : w.q2.toNat = (2 ^ w.p.toNat - 1) / w.dv.toNat
  remainder2 : w.r2.toNat = (2 ^ w.p.toNat - 1) % w.dv.toNat
  add_indicator : w.af = true ↔ 2 ^ 32 ≤ w.q2.toNat
  not_stopped : ∀ k, 32 ≤ k → k ≤ w.p.toNat → ¬ umagicStopsAt w.dv.toNat k

/-- MODINV in progress: `W.t = Mul32(du, W.xn)` for an odd divisor, correct to three bits at least (43_modinv R172,
R173). -/
structure ModinvBusy (w : Working) : Prop where
  dv_odd : w.dv.toNat % 2 = 1
  product : w.t.toNat = w.dv.toNat * w.xn.toNat % 2 ^ 32
  three_bits : w.t.toNat % 8 = 1

/-- The working registers belong to the command word in progress: its opcode, its divisor (which passed the checks), and
the invariant of its loop. -/
def BusyWith (cw : CommandWord) (w : Working) : Prop :=
  (decode cw).opcode = w.op ∧
    match w.op with
    | .mul32 => False
    | .smagic =>
      divisorError smagicDomainError (fieldA cw) = none ∧
        w.neg = decide ((effectiveDivisor (fieldA cw)).toInt < 0) ∧
        w.dv.toNat = (effectiveDivisor (fieldA cw)).toInt.natAbs ∧ SmagicBusy w
    | .umagic =>
      divisorError umagicDomainError (fieldA cw) = none ∧ w.dv = effectiveDivisor (fieldA cw) ∧ UmagicBusy w
    | .modinv =>
      divisorError modinvDomainError (fieldA cw) = none ∧ w.dv = effectiveDivisor (fieldA cw) ∧ ModinvBusy w

/-- The invariant of the machine. The host waits for a response exactly outside IDLE; in BUSY the working registers are
those of its command; in RESP the response is `Exec` of its command word (10_state R32); every observed pair is
`(cw, Exec(cw))` (10_state R35). -/
structure Inv (s : State) : Prop where
  waiting : s.phase = .idle ↔ s.host.issued = none
  busy : s.phase = .busy → ∃ cw, s.host.issued = some cw ∧ BusyWith cw s.w
  resp : s.phase = .resp → ∃ cw, s.host.issued = some cw ∧ execWord cw = some s.rsp
  observed : ∀ pair ∈ s.host.observed, execWord pair.1 = some pair.2

/-- A divisor operand in the range of 30_encoding R76, by its value. -/
abbrev DivisorRange (a : OperandWord) : Prop := -2 ^ 31 ≤ a.toInt ∧ a.toInt ≤ 2 ^ 32 - 1

/-- An operand SMAGIC has a result for (60_exceptions R202): in range, and its signed fold of magnitude above 1. -/
abbrev SmagicDomain (a : OperandWord) : Prop := DivisorRange a ∧ 1 < (signedFold a.toInt).natAbs

/-- An operand UMAGIC has a result for (60_exceptions R202): in range, and its unsigned fold above 1. -/
abbrev UmagicDomain (a : OperandWord) : Prop := DivisorRange a ∧ 1 < unsignedFold a.toInt

/-- An operand MODINV has a result for (60_exceptions R202): in range and odd. -/
abbrev ModinvDomain (a : OperandWord) : Prop := DivisorRange a ∧ a.toInt % 2 = 1

/-- The state after the ACCEPT step of a command with opcode `op` that is answered at once with `r`: `W.op`, RSP and the
phase are written and nothing else (10_state R29, 00_scope R9). -/
def answeredAtOnce (op : Opcode) (r : Response) (s : State) : State :=
  { s with phase := .resp, rsp := packResponse r, w := { s.w with op := op } }

/-- From `s`, ACCEPT of the command `i` and then exactly `k` ITERATE steps reach `u`, in RESP (10_state R32). -/
def Reaches (i : Instr) (s : State) (k : Nat) (u : State) : Prop :=
  ∃ t, exec i s = .next t ∧ runEngine k t = some u

/-- `t` differs from `s` in nothing but the working registers, RSP and the phase: the host's side and the model's counter
are as they were. -/
def SameOutside (s t : State) : Prop := t.host = s.host ∧ t.freeCount = s.freeCount

/-- A host that always offers its next command and is always ready for the response, and never resets. -/
def EagerHost (h : HostSide) : Prop :=
  h.levels = { rst := false, cmdValid := true, rspReady := true } ∧ h.plan = []

end Sys2Proof.Machine
end

