-- ==== Sys2Proof/Certificates/Slice0/Obligations.lean ====
section
/-! DEFINITION. The statements for the provers. They come from the numbered rules of spec/; OBLIGATIONS.json says which.
MAGICGEN has no memory, so no statement speaks of one: a frame names the phase, the working registers, RSP, the host's
side and the model's counter, which are all of State. -/

open Sys2Proof Sys2Proof.Machine

/-! ## Encoding (30_encoding) -/

/-- R71, R72, R75: decoding the word of a command gives the command back, with every operand at every value. -/
def Obligations.DecodeOfEncodeIsTheCommand : Prop :=
  ∀ i : Instr, i.wellFormed = true → decode (encode i) = i

/-- R75, R79: every command word is the word of exactly one command, so no bit of it is lost. -/
def Obligations.EncodeOfDecodeIsTheWord : Prop :=
  ∀ cw : CommandWord, encode (decode cw) = cw

/-- R71, R72: a command word read as a number is `op * 2^128 + b * 2^64 + a`, with the four opcode numbers. -/
def Obligations.CommandWordLayout : Prop :=
  ∀ a b : OperandWord,
    (encode (.mul32 a b)).toNat = 0 * 2 ^ 128 + b.toNat * 2 ^ 64 + a.toNat ∧
    (encode (.smagic a b)).toNat = 1 * 2 ^ 128 + b.toNat * 2 ^ 64 + a.toNat ∧
    (encode (.umagic a b)).toNat = 2 * 2 ^ 128 + b.toNat * 2 ^ 64 + a.toNat ∧
    (encode (.modinv a b)).toNat = 3 * 2 ^ 128 + b.toNat * 2 ^ 64 + a.toNat

/-- Five command words of 95_test_vectors, sections 2 to 6, decode to the commands they stand for. -/
def Obligations.SpecWordsDecode : Prop :=
  decode 0x0000000009ABCDEF00000000012345678#130 = .mul32 0x12345678#64 0x9ABCDEF0#64 ∧
  decode 0x10000000000000000FFFFFFFFFFFFFFF9#130 = .smagic (BitVec.ofInt 64 (-7)) 0#64 ∧
  decode 0x2000000000000000000000000FFFFFFFE#130 = .umagic 4294967294#64 0#64 ∧
  decode 0x3000000000000000000000000DEADBEEF#130 = .modinv 0xDEADBEEF#64 0#64 ∧
  decode 0x2123456789ABCDEF00000000000000007#130 = .umagic 7#64 0x123456789ABCDEF0#64

/-- R74, R201: a response word read as a number is `status * 2^39 + add * 2^38 + shift * 2^32 + value`, with the four
status codes, and its fields are read back as they were. -/
def Obligations.ResponseWordLayout : Prop :=
  (∀ r : Response,
    (packResponse r).toNat =
        (match r.status with | .ok => 0 | .errRange => 1 | .errDegenerate => 2 | .errEven => 3) * 2 ^ 39 +
          (if r.add then 1 else 0) * 2 ^ 38 + r.shift.toNat * 2 ^ 32 + r.value.toNat ∧
      unpackResponse (packResponse r) = r) ∧
  ∀ rw : ResponseWord, packResponse (unpackResponse rw) = rw

/-! ## The steps and the host's channels (10_state, 20_memory, 70_reset) -/

/-- A step runs the decoded command: with a word offered in IDLE and no reset, the step is `exec` of the command the
word decodes to. Around it the step takes the word off the channel, notes it as the one whose response the host waits
for, and moves the host's levels on. How the host's side is held is the model's choice (log 7, log 18). -/
def Obligations.StepRunsTheOfferedCommand : Prop :=
  ∀ (s : State) (cw : CommandWord) (rest : List CommandWord) (i : Instr),
    s.host.levels.rst = false → s.phase = .idle → s.host.levels.cmdValid = true → s.host.offers = cw :: rest →
    decode cw = i → i.wellFormed = true →
      step s = mapNext (endAccept cw) (exec i s) ∧
      ∃ t u, exec i s = .next t ∧ step s = .next u ∧ u.phase = t.phase ∧ u.w = t.w ∧ u.rsp = t.rsp ∧
        u.freeCount = t.freeCount ∧ u.host.offers = rest ∧ u.host.issued = some cw ∧
        u.host.observed = s.host.observed

/-- R23: the phase changes only by ACCEPT of an offered command from IDLE, by an ITERATE that ends a command, by a TAKE
the host is ready for, and by RESET to IDLE. That RESET wins is the model's reading (log 8). -/
def Obligations.PhaseChangesOnlyAsStated : Prop :=
  ∀ s t : State, step s = .next t → t.phase ≠ s.phase →
    (s.host.levels.rst = true ∧ t.phase = .idle) ∨
    (s.host.levels.rst = false ∧
      ((s.phase = .idle ∧ (∃ cw, offeredWord s.host = some cw) ∧ (t.phase = .busy ∨ t.phase = .resp)) ∨
       (s.phase = .busy ∧ t.phase = .resp) ∨
       (s.phase = .resp ∧ s.host.levels.rspReady = true ∧ t.phase = .idle)))

/-- R29, R54, R70: a command word leaves the channel exactly when it is valid in IDLE without reset; otherwise it is
held off, neither dropped nor queued inside MAGICGEN, and the command itself changes nothing. How the host holds its
words is the model's choice (log 7, log 9), and that RESET wins over ACCEPT is its reading (log 8). -/
def Obligations.CommandsAreHeldOffOutsideIdle : Prop :=
  (∀ (i : Instr) (s : State), s.phase ≠ .idle → exec i s = .next s) ∧
  ∀ s t : State, step s = .next t →
    t.host.offers =
      if s.host.levels.rst = false ∧ s.phase = .idle ∧ s.host.levels.cmdValid = true then s.host.offers.tail
      else s.host.offers

/-- R31: TAKE delivers RSP once, paired with the command word it answers, and leads to IDLE without clearing RSP or W;
until the host is ready, the response stays pending and no command is accepted. How the host records it is the model's
choice (log 18). That W keeps its values in RESP and after TAKE is the model's (log 11). -/
def Obligations.TakeDeliversTheResponse : Prop :=
  ∀ (s : State) (cw : CommandWord), s.host.levels.rst = false → s.phase = .resp → s.host.issued = some cw →
    (s.host.levels.rspReady = true →
      ∃ t, step s = .next t ∧ t.phase = .idle ∧ t.rsp = s.rsp ∧ t.w = s.w ∧ t.freeCount = s.freeCount ∧
        t.host.observed = s.host.observed ++ [(cw, s.rsp)] ∧ t.host.issued = none ∧
        t.host.offers = s.host.offers) ∧
    (s.host.levels.rspReady = false →
      ∃ t, step s = .next t ∧ t.phase = .resp ∧ t.rsp = s.rsp ∧ t.w = s.w ∧ t.freeCount = s.freeCount ∧
        t.host.observed = s.host.observed ∧ t.host.issued = some cw ∧ t.host.offers = s.host.offers)

/-- R230: RESET in any phase leads to IDLE; the command in progress or the pending response is never answered, what was
observed before stands, and the host's further commands are still to come. That a word offered in that step stays
offered, and a response ready to be taken in it is not observed, rests on RESET winning over ACCEPT and TAKE, which is
the model's reading (log 8); that the host then waits for nothing is the model's reading too (log 18). -/
def Obligations.ResetAbandonsTheCommand : Prop :=
  ∀ s : State, s.host.levels.rst = true →
    ∃ t, step s = .next t ∧ t.phase = .idle ∧ t.cmdReady = true ∧ t.rspValid = false ∧
      t.host.observed = s.host.observed ∧ t.host.offers = s.host.offers ∧ t.host.issued = none

/-- R25, R237: outside RESET, RSP changes only in the step that enters RESP, so a pending response is never
overwritten. -/
def Obligations.ResponseRegisterWrittenOnlyByResponding : Prop :=
  ∀ s t : State, step s = .next t → s.host.levels.rst = false → t.rsp ≠ s.rsp →
    s.phase ≠ .resp ∧ t.phase = .resp

/-- R237: a host that neither takes the response nor resets, now or in any step it plans, blocks MAGICGEN for ever in
RESP with the same response, and none of its further commands is accepted. -/
def Obligations.UntakenResponseBlocksForEver : Prop :=
  ∀ s : State, s.phase = .resp → s.host.levels.rst = false → s.host.levels.rspReady = false →
    (∀ l ∈ s.host.plan, l.rst = false ∧ l.rspReady = false) →
    ∀ k, ∃ t : State, Sys2Proof.core.run k s = .next t ∧ t.phase = .resp ∧ t.rsp = s.rsp ∧
      t.host.offers = s.host.offers ∧ t.host.observed = s.host.observed ∧ t.host.issued = s.host.issued

/-! ## The two levels, and what a host observes (10_state) -/

/-- R33, R34: the response, and how many iterations it takes, depend on the command alone: whatever W, RSP, the host's
history and the model's counter hold in IDLE. -/
def Obligations.ResponseDependsOnTheCommandAlone : Prop :=
  ∀ (i : Instr) (s s' : State) (k : Nat) (u : State), s.phase = .idle → s'.phase = .idle → Reaches i s k u →
    ∃ u', Reaches i s' k u' ∧ u'.rsp = u.rsp

/-- R32: from any IDLE state, ACCEPT of any command word and the ITERATE steps it enables (at most 33) reach RESP with
`RSP = Exec(cw)`; the host's side is untouched on the way. -/
def Obligations.StepsAgreeWithExec : Prop :=
  ∀ (cw : CommandWord) (s : State), s.phase = .idle →
    ∃ k u rw, k ≤ 33 ∧ Reaches (decode cw) s k u ∧ u.phase = .resp ∧ execWord cw = some rw ∧ u.rsp = rw ∧
      SameOutside s u

/-- R35: a host that issues its commands and takes every response ends in IDLE with every command issued, and has
observed exactly the pairs `(cw, Exec(cw))`, in order. How the host's side is held is the model's choice (log 7, log
18). -/
def Obligations.HostObservesExecOfEveryCommand : Prop :=
  ∀ s : State, s.phase = .idle → EagerHost s.host →
    ∃ (k : Nat) (t : State) (rws : List ResponseWord), Sys2Proof.core.run k s = .next t ∧ t.phase = .idle ∧
      t.host.offers = [] ∧ s.host.offers.map execWord = rws.map some ∧
      t.host.observed = s.host.observed ++ s.host.offers.zip rws

/-! ## The invariant (10_state R24, R30, R35; 41_smagic R116; 42_umagic R147, R148; 43_modinv R172 to R175) -/

/-- The invariant holds right after reset. It holds whatever values W and RSP have there, so it does not rest on the
model's choice of them (log 1, log 2); that the host waits for nothing is log 5. -/
def Obligations.InvariantHoldsAtReset : Prop :=
  Inv State.reset ∧
  ∀ (w : Working) (rsp : ResponseWord) (n : Nat), Inv { State.reset with w := w, rsp := rsp, freeCount := n }

/-- Every step keeps the invariant: in BUSY the registers hold the quotients and remainders of the spec for the command
in progress, in RESP the pending response is `Exec` of its command word, and so is every observed response. How the
host's side is held is the model's choice (log 18). -/
def Obligations.EveryStepKeepsTheInvariant : Prop :=
  ∀ s t : State, Inv s → step s = .next t → Inv t

/-- No state with the invariant stops: the step answers a next state. The one fault this rules out is the model's own
(log 10). -/
def Obligations.InvariantStatesNeverStop : Prop :=
  ∀ s : State, Inv s → ∃ t, step s = .next t

/-- R30: from every BUSY state with the invariant the engine alone reaches RESP, within 31 iterations for SMAGIC, 33 for
UMAGIC and 5 for MODINV. -/
def Obligations.BusyAlwaysEnds : Prop :=
  ∀ s : State, Inv s → s.phase = .busy →
    ∃ k u, runEngine k s = some u ∧ 1 ≤ k ∧
      k ≤ (match s.w.op with | .mul32 => 0 | .smagic => 31 | .umagic => 33 | .modinv => 5)

/-- R204: an iteration never ends in an error; every error is raised in ACCEPT. -/
def Obligations.IterationsNeverRaiseErrors : Prop :=
  ∀ s t : State, s.host.levels.rst = false → s.phase = .busy → step s = .next t → t.phase = .resp →
    (unpackResponse t.rsp).status = .ok

/-! ## MUL32 (40_mul32) -/

/-- R100: the algorithm by halves. The partial products are below `2^32`, the shifted ones below `2^48`, the sum below
`2^32 + 2^49`; truncating the shifted terms first makes no difference; the result is `(x * y) mod 2^32`. -/
def Obligations.Mul32ByHalves : Prop :=
  ∀ x y : Int,
    (lo32 x : Int) = x % 2 ^ 32 ∧ lo32 x = hi16 x * 2 ^ 16 + lo16 x ∧ lo16 x < 2 ^ 16 ∧ hi16 x < 2 ^ 16 ∧
    lo16 x * lo16 y < 2 ^ 32 ∧ hi16 x * lo16 y < 2 ^ 32 ∧ lo16 x * hi16 y < 2 ^ 32 ∧
    (hi16 x * lo16 y) * 2 ^ 16 < 2 ^ 48 ∧ (lo16 x * hi16 y) * 2 ^ 16 < 2 ^ 48 ∧
    mul32Sum x y < 2 ^ 32 + 2 ^ 49 ∧
    (mul32 x y).toNat =
      (lo16 x * lo16 y + (hi16 x * lo16 y) * 2 ^ 16 % 2 ^ 32 + (lo16 x * hi16 y) * 2 ^ 16 % 2 ^ 32) % 2 ^ 32 ∧
    ((mul32 x y).toNat : Int) = x * y % 2 ^ 32

/-- R102: `Mul32(x, y) = (x * y) mod 2^32` for all integers, with its consequences. -/
def Obligations.Mul32IsTheProduct : Prop :=
  (∀ x y : Int, ((mul32 x y).toNat : Int) = x * y % 2 ^ 32 ∧ mul32 x y = mul32 y x ∧
    (mul32 x 1).toNat = lo32 x ∧ mul32 x y = mul32 (lo32 x) (lo32 y)) ∧
  ∀ u v : Word, mul32 u.toInt v.toInt = u * v ∧ mul32 u.toNat v.toNat = u * v

/-- R101: MUL32 completes in the ACCEPT step, for any operands, with the product modulo `2^32`; the state changes in
`W.op`, RSP and the phase alone. That the rest of W keeps its values once the phase is RESP is the model's (log 11). -/
def Obligations.Mul32CompletesInAccept : Prop :=
  ∀ (a b : OperandWord) (s : State), s.phase = .idle →
    exec (.mul32 a b) s =
      .next (answeredAtOnce .mul32
        { status := .ok, add := false, shift := 0#6, value := BitVec.ofInt 32 (a.toInt * b.toInt) } s)

/-! ## SMAGIC (41_smagic) -/

/-- R112 to R114: ACCEPT of SMAGIC with a divisor of its domain enters BUSY with the sign, the magnitude, the bound `anc`
(the largest integer not above `t - 1` congruent to `ad - 1` modulo `ad`) and the first quotients and remainders; the
other registers, RSP and the host's side stay. -/
def Obligations.SmagicAcceptLoadsTheSearch : Prop :=
  ∀ (a b : OperandWord) (s : State), s.phase = .idle → SmagicDomain a →
    let d := signedFold a.toInt
    let ad := d.natAbs
    let lim := if d < 0 then 2 ^ 31 + 1 else 2 ^ 31
    ∃ t, exec (.smagic a b) s = .next t ∧ t.phase = .busy ∧ t.w.op = .smagic ∧ t.w.neg = decide (d < 0) ∧
      t.w.dv.toNat = ad ∧ 2 ≤ ad ∧ ad ≤ 2 ^ 31 ∧ (ad = 2 ^ 31 ↔ d = -2 ^ 31) ∧
      t.w.nc.toNat = lim - 1 - lim % ad ∧ t.w.nc.toNat % ad = ad - 1 ∧
      (∀ m, m ≤ lim - 1 → m % ad = ad - 1 → m ≤ t.w.nc.toNat) ∧
      2 ^ 30 ≤ t.w.nc.toNat ∧ t.w.nc.toNat ≤ 2 ^ 31 ∧
      t.w.p.toNat = 31 ∧
      t.w.q1.toNat = 2 ^ 31 / t.w.nc.toNat ∧ t.w.r1.toNat = 2 ^ 31 % t.w.nc.toNat ∧
      t.w.q2.toNat = 2 ^ 31 / ad ∧ t.w.r2.toNat = 2 ^ 31 % ad ∧
      (t.w.q1.toNat = 1 ∨ (t.w.q1.toNat = 2 ∧ t.w.nc.toNat = 2 ^ 30 ∧ ad = 2 ^ 30 + 1)) ∧
      t.w.af = s.w.af ∧ t.w.xn = s.w.xn ∧ t.w.t = s.w.t ∧ t.rsp = s.rsp ∧ SameOutside s t

/-- R111, R201 to R204: SMAGIC answers out-of-range operands with ERR_RANGE and the in-range operands -1, 0, 1 and
`2^32 - 1` with ERR_DEGENERATE, in ACCEPT, writing `W.op`, RSP and the phase alone; every other operand enters BUSY. -/
def Obligations.SmagicDomainErrors : Prop :=
  ∀ (a b : OperandWord) (s : State), s.phase = .idle →
    (¬ DivisorRange a →
      exec (.smagic a b) s =
        .next (answeredAtOnce .smagic { status := .errRange, add := false, shift := 0#6, value := 0#32 } s)) ∧
    (a.toInt = -1 ∨ a.toInt = 0 ∨ a.toInt = 1 ∨ a.toInt = 2 ^ 32 - 1 →
      exec (.smagic a b) s =
        .next (answeredAtOnce .smagic { status := .errDegenerate, add := false, shift := 0#6, value := 0#32 } s)) ∧
    (DivisorRange a → ¬ (a.toInt = -1 ∨ a.toInt = 0 ∨ a.toInt = 1 ∨ a.toInt = 2 ^ 32 - 1) →
      ∃ t, exec (.smagic a b) s = .next t ∧ t.phase = .busy)

/-- R115 to R117: one ITERATE of SMAGIC takes the quotients and remainders of `2^p` to those of `2^(p+1)`, and ends the
command with the multiplier and shift exactly when `2^(p+1) > anc * delta`; nothing else changes. What W holds in RESP
is the model's (log 11). -/
def Obligations.SmagicIterateDoubles : Prop :=
  ∀ s : State, s.host.levels.rst = false → s.phase = .busy → s.w.op = .smagic →
    2 ≤ s.w.dv.toNat → s.w.dv.toNat ≤ 2 ^ 31 → 2 ^ 30 ≤ s.w.nc.toNat → s.w.nc.toNat ≤ 2 ^ 31 →
    31 ≤ s.w.p.toNat → s.w.p.toNat ≤ 61 →
    s.w.q1.toNat = 2 ^ s.w.p.toNat / s.w.nc.toNat → s.w.r1.toNat = 2 ^ s.w.p.toNat % s.w.nc.toNat →
    s.w.q2.toNat = 2 ^ s.w.p.toNat / s.w.dv.toNat → s.w.r2.toNat = 2 ^ s.w.p.toNat % s.w.dv.toNat →
    let p := s.w.p.toNat + 1
    let ad := s.w.dv.toNat
    let M := 2 ^ p / ad + 1
    ∃ t, step s = .next t ∧ t.w.p.toNat = p ∧
      t.w.q1.toNat = 2 ^ p / s.w.nc.toNat ∧ t.w.r1.toNat = 2 ^ p % s.w.nc.toNat ∧
      t.w.q2.toNat = 2 ^ p / ad ∧ t.w.r2.toNat = 2 ^ p % ad ∧
      t.w.op = .smagic ∧ t.w.neg = s.w.neg ∧ t.w.dv = s.w.dv ∧ t.w.nc = s.w.nc ∧
      t.w.af = s.w.af ∧ t.w.xn = s.w.xn ∧ t.w.t = s.w.t ∧
      (if s.w.nc.toNat * (ad - 2 ^ p % ad) < 2 ^ p then
        t.phase = .resp ∧
          t.rsp = packResponse
            { status := .ok, add := false, shift := BitVec.ofNat 6 (p - 32)
              value := if s.w.neg then BitVec.ofInt 32 (2 ^ 32 - (M : Int)) else BitVec.ofNat 32 M }
      else t.phase = .busy ∧ t.rsp = s.rsp) ∧
      t.host = advanceLevels s.host ∧ t.freeCount = s.freeCount

/-- R120, with R118 and R240: SMAGIC of a divisor of its domain completes, and the response is the closed form's: the
least `p >= 32` with `2^p > anc * delta(p)`, `M = floor(2^p / ad) + 1`, after `p - 31` iterations. -/
def Obligations.SmagicAnswersTheClosedForm : Prop :=
  ∀ (a b : OperandWord) (s : State), s.phase = .idle → SmagicDomain a →
    let d := signedFold a.toInt
    let ad := d.natAbs
    let t := if d < 0 then 2 ^ 31 + 1 else 2 ^ 31
    let anc := t - 1 - t % ad
    ∃ p u r, IsLeastFrom 32 (fun k => anc * (ad - 2 ^ k % ad) < 2 ^ k) p ∧ p ≤ 62 ∧ 2 ^ p / ad + 1 < 2 ^ 32 ∧
      r = { status := .ok, add := false, shift := BitVec.ofNat 6 (p - 32)
            value := if 0 < d then BitVec.ofNat 32 (2 ^ p / ad + 1)
              else BitVec.ofNat 32 (2 ^ 32 - (2 ^ p / ad + 1)) } ∧
      resultSmagic a = some r ∧ Reaches (.smagic a b) s (p - 31) u ∧ u.rsp = packResponse r ∧
      u.phase = .resp ∧ SameOutside s u

/-- R118, R240: SMAGIC takes `shift + 1` iterations, from 1 to 31, its shift is at most 30, and the greatest is reached
by the divisor `-2^31`. -/
def Obligations.SmagicTerminates : Prop :=
  (∀ (a b : OperandWord) (s : State), s.phase = .idle → SmagicDomain a →
    ∃ k u, Reaches (.smagic a b) s k u ∧ 1 ≤ k ∧ k ≤ 31 ∧ (unpackResponse u.rsp).shift.toNat = k - 1) ∧
  ∀ (b : OperandWord) (s : State), s.phase = .idle →
    ∃ u, Reaches (.smagic (BitVec.ofInt 64 (-2 ^ 31)) b) s 31 u ∧
      unpackResponse u.rsp = { status := .ok, add := false, shift := 30#6, value := 0x7FFFFFFF#32 }

/-- R186: the signed division law, for every divisor of the domain and every dividend of the signed 32-bit range, with the
range of the true multiplier and the cases in which the correction adds 1. -/
def Obligations.SignedDivisionLaw : Prop :=
  ∀ (a b : OperandWord) (s : State), s.phase = .idle → SmagicDomain a →
    let d := signedFold a.toInt
    ∃ k u, Reaches (.smagic a b) s k u ∧
      let r := unpackResponse u.rsp
      let Mt := signedTrueMultiplier d r.value
      r.status = .ok ∧ (0 < d → 3 ≤ Mt ∧ Mt ≤ 2 ^ 32 - 1) ∧ (d < 0 → -(2 ^ 32 - 1) ≤ Mt ∧ Mt ≤ -3) ∧
      ∀ n : Int, -2 ^ 31 ≤ n → n ≤ 2 ^ 31 - 1 →
        signedLawQuotient d r.value r.shift.toNat n = n.tdiv d ∧
        (Mt * n / 2 ^ (32 + r.shift.toNat) < 0 ↔ (n < 0 ∧ 0 < d) ∨ (0 < n ∧ d < 0)) ∧
        (n = 0 → Mt * n / 2 ^ (32 + r.shift.toNat) = 0)

/-- R190, signed part: the consumer's 32-bit sequence gives the quotient. -/
def Obligations.SignedSequenceDivides : Prop :=
  ∀ (a b : OperandWord) (s : State), s.phase = .idle → SmagicDomain a →
    let d := signedFold a.toInt
    ∃ k u, Reaches (.smagic a b) s k u ∧
      let r := unpackResponse u.rsp
      ∀ n : Word, (signedSequence d r.value r.shift.toNat n).toInt = n.toInt.tdiv d

/-! ## UMAGIC (42_umagic) -/

/-- R142 to R144: ACCEPT of UMAGIC with a divisor of its domain enters BUSY with the divisor, the bound `nc`, the add
indicator clear and the first quotients and remainders; the other registers, RSP and the host's side stay. -/
def Obligations.UmagicAcceptLoadsTheSearch : Prop :=
  ∀ (a b : OperandWord) (s : State), s.phase = .idle → UmagicDomain a →
    let du := (unsignedFold a.toInt).toNat
    ∃ t, exec (.umagic a b) s = .next t ∧ t.phase = .busy ∧ t.w.op = .umagic ∧ t.w.dv.toNat = du ∧
      2 ≤ du ∧ du ≤ 2 ^ 32 - 1 ∧
      t.w.nc.toNat = 2 ^ 32 - 1 - (2 ^ 32 - du) % du ∧ t.w.nc.toNat = 2 ^ 32 - 1 - 2 ^ 32 % du ∧
      t.w.nc.toNat = 2 ^ 32 / du * du - 1 ∧ t.w.nc.toNat % du = du - 1 ∧
      (∀ m, m ≤ 2 ^ 32 - 1 → m % du = du - 1 → m ≤ t.w.nc.toNat) ∧
      2 ^ 31 ≤ t.w.nc.toNat ∧ t.w.nc.toNat ≤ 2 ^ 32 - 1 ∧ t.w.af = false ∧ t.w.p.toNat = 31 ∧
      t.w.q1.toNat = 2 ^ 31 / t.w.nc.toNat ∧ t.w.r1.toNat = 2 ^ 31 % t.w.nc.toNat ∧
      t.w.q2.toNat = (2 ^ 31 - 1) / du ∧ t.w.r2.toNat = (2 ^ 31 - 1) % du ∧
      (t.w.q1.toNat = 0 ∨ (t.w.q1.toNat = 1 ∧ t.w.nc.toNat = 2 ^ 31 ∧ du = 2 ^ 31 + 1)) ∧
      t.w.neg = s.w.neg ∧ t.w.xn = s.w.xn ∧ t.w.t = s.w.t ∧ t.rsp = s.rsp ∧ SameOutside s t

/-- R141, R201 to R204: UMAGIC answers out-of-range operands with ERR_RANGE and the operands 0 and 1 with
ERR_DEGENERATE, in ACCEPT; every other operand, -1 and `2^32 - 1` among them, enters BUSY. -/
def Obligations.UmagicDomainErrors : Prop :=
  ∀ (a b : OperandWord) (s : State), s.phase = .idle →
    (¬ DivisorRange a →
      exec (.umagic a b) s =
        .next (answeredAtOnce .umagic { status := .errRange, add := false, shift := 0#6, value := 0#32 } s)) ∧
    (a.toInt = 0 ∨ a.toInt = 1 →
      exec (.umagic a b) s =
        .next (answeredAtOnce .umagic { status := .errDegenerate, add := false, shift := 0#6, value := 0#32 } s)) ∧
    (DivisorRange a → ¬ (a.toInt = 0 ∨ a.toInt = 1) → ∃ t, exec (.umagic a b) s = .next t ∧ t.phase = .busy)

/-- R145 to R147: one ITERATE of UMAGIC takes the quotients and remainders of `2^p` and `2^p - 1` to those of `2^(p+1)`
and `2^(p+1) - 1`, raises the add indicator when the quotient was at least `2^31`, and goes on exactly while `p + 1 <
64` and `2^(p+1) <= nc * delta`; nothing else changes. What W holds in RESP is the model's (log 11). -/
def Obligations.UmagicIterateDoubles : Prop :=
  ∀ s : State, s.host.levels.rst = false → s.phase = .busy → s.w.op = .umagic →
    2 ≤ s.w.dv.toNat → 2 ^ 31 ≤ s.w.nc.toNat → 31 ≤ s.w.p.toNat → s.w.p.toNat ≤ 63 →
    s.w.q1.toNat = 2 ^ s.w.p.toNat / s.w.nc.toNat → s.w.r1.toNat = 2 ^ s.w.p.toNat % s.w.nc.toNat →
    s.w.q2.toNat = (2 ^ s.w.p.toNat - 1) / s.w.dv.toNat → s.w.r2.toNat = (2 ^ s.w.p.toNat - 1) % s.w.dv.toNat →
    let p := s.w.p.toNat + 1
    let du := s.w.dv.toNat
    ∃ t, step s = .next t ∧ t.w.p.toNat = p ∧
      t.w.q1.toNat = 2 ^ p / s.w.nc.toNat ∧ t.w.r1.toNat = 2 ^ p % s.w.nc.toNat ∧
      t.w.q2.toNat = (2 ^ p - 1) / du ∧ t.w.r2.toNat = (2 ^ p - 1) % du ∧
      (t.w.af = true ↔ s.w.af = true ∨ 2 ^ 31 ≤ s.w.q2.toNat) ∧
      t.w.op = .umagic ∧ t.w.neg = s.w.neg ∧ t.w.dv = s.w.dv ∧ t.w.nc = s.w.nc ∧
      t.w.xn = s.w.xn ∧ t.w.t = s.w.t ∧
      (if p < 64 ∧ 2 ^ p ≤ s.w.nc.toNat * (du - 1 - (2 ^ p - 1) % du) then t.phase = .busy ∧ t.rsp = s.rsp
      else
        t.phase = .resp ∧
          t.rsp = packResponse
            { status := .ok, add := t.w.af, shift := BitVec.ofNat 6 (p - 32)
              value := BitVec.ofNat 32 ((2 ^ p - 1) / du + 1) }) ∧
      t.host = advanceLevels s.host ∧ t.freeCount = s.freeCount

/-- R151, with R148 and R240: UMAGIC of a divisor of its domain completes, and the response is the closed form's: the
least `p` in 32 .. 64 with `2^p > nc * delta(p)`, `Mi = floor((2^p - 1) / du) + 1`, add exactly when `Mi >= 2^32`, after
`p - 31` iterations. -/
def Obligations.UmagicAnswersTheClosedForm : Prop :=
  ∀ (a b : OperandWord) (s : State), s.phase = .idle → UmagicDomain a →
    let du := (unsignedFold a.toInt).toNat
    let nc := 2 ^ 32 - 1 - (2 ^ 32 - du) % du
    ∃ p u r, IsLeastFrom 32 (fun k => nc * (du - 1 - (2 ^ k - 1) % du) < 2 ^ k) p ∧ p ≤ 64 ∧
      r = { status := .ok, add := decide (2 ^ 32 ≤ (2 ^ p - 1) / du + 1), shift := BitVec.ofNat 6 (p - 32)
            value := BitVec.ofNat 32 ((2 ^ p - 1) / du + 1) } ∧
      resultUmagic a = some r ∧ Reaches (.umagic a b) s (p - 31) u ∧ u.rsp = packResponse r ∧
      u.phase = .resp ∧ SameOutside s u

/-- R149: the guard `p < 64` never decides the exit: from a state of the loop, the command goes on exactly when
`q1 < delta or (q1 = delta and r1 = 0)` holds of the new registers. Where the command ends, these are read in RESP; that
W keeps them there is the model's (log 11). -/
def Obligations.UmagicGuardNeverDecides : Prop :=
  ∀ s t : State, s.host.levels.rst = false → s.phase = .busy → s.w.op = .umagic → UmagicBusy s.w →
    step s = .next t →
    (t.phase = .busy ↔
      ((t.w.q1.toNat : Int) < (t.w.dv.toNat : Int) - 1 - t.w.r2.toNat ∨
        ((t.w.q1.toNat : Int) = (t.w.dv.toNat : Int) - 1 - t.w.r2.toNat ∧ t.w.r1.toNat = 0)))

/-- R188: the unsigned division law, for every divisor of the domain and every 32-bit dividend, with the range of the true
multiplier. -/
def Obligations.UnsignedDivisionLaw : Prop :=
  ∀ (a b : OperandWord) (s : State), s.phase = .idle → UmagicDomain a →
    let du := (unsignedFold a.toInt).toNat
    ∃ k u, Reaches (.umagic a b) s k u ∧
      let r := unpackResponse u.rsp
      r.status = .ok ∧ 2 ≤ unsignedTrueMultiplier r.value r.add ∧ unsignedTrueMultiplier r.value r.add < 2 ^ 33 ∧
      ∀ n : Nat, n ≤ 2 ^ 32 - 1 →
        unsignedLawQuotient r.value r.add r.shift.toNat n = n / du ∧
        (r.add = true →
          unsignedTrueMultiplier r.value r.add * n / 2 ^ 32 = (mulhu r.value (BitVec.ofNat 32 n)).toNat + n)

/-- R190, unsigned part: the consumer's 32-bit sequence gives the quotient; add never comes with shift 0, and shift 32
never without add. -/
def Obligations.UnsignedSequenceDivides : Prop :=
  ∀ (a b : OperandWord) (s : State), s.phase = .idle → UmagicDomain a →
    let du := (unsignedFold a.toInt).toNat
    ∃ k u, Reaches (.umagic a b) s k u ∧
      let r := unpackResponse u.rsp
      (r.add = true → 1 ≤ r.shift.toNat) ∧ (r.add = false → r.shift.toNat ≤ 31) ∧
      ∀ n : Word, (unsignedSequence r.value r.add r.shift.toNat n).toNat = n.toNat / du

/-! ## MODINV (43_modinv) -/

/-- R172: ACCEPT of MODINV with an odd divisor enters BUSY with the divisor as first approximation and its square modulo
`2^32`, which is 1 modulo 8, so correct to three bits; the other registers, RSP and the host's side stay. -/
def Obligations.ModinvAcceptLoadsTheSquare : Prop :=
  ∀ (a b : OperandWord) (s : State), s.phase = .idle → ModinvDomain a →
    let du := (unsignedFold a.toInt).toNat
    ∃ t, exec (.modinv a b) s = .next t ∧ t.phase = .busy ∧ t.w.op = .modinv ∧ t.w.dv.toNat = du ∧
      t.w.xn.toNat = du ∧ t.w.t.toNat = du * du % 2 ^ 32 ∧ t.w.t.toNat % 8 = 1 ∧
      t.w.neg = s.w.neg ∧ t.w.nc = s.w.nc ∧ t.w.p = s.w.p ∧ t.w.q1 = s.w.q1 ∧ t.w.r1 = s.w.r1 ∧
      t.w.q2 = s.w.q2 ∧ t.w.r2 = s.w.r2 ∧ t.w.af = s.w.af ∧ t.rsp = s.rsp ∧ SameOutside s t

/-- R171, R201 to R204: MODINV answers out-of-range operands with ERR_RANGE and in-range even ones, 0 included, with
ERR_EVEN, in ACCEPT; every in-range odd operand enters BUSY. -/
def Obligations.ModinvDomainErrors : Prop :=
  ∀ (a b : OperandWord) (s : State), s.phase = .idle →
    (¬ DivisorRange a →
      exec (.modinv a b) s =
        .next (answeredAtOnce .modinv { status := .errRange, add := false, shift := 0#6, value := 0#32 } s)) ∧
    (DivisorRange a → a.toInt % 2 = 0 →
      exec (.modinv a b) s =
        .next (answeredAtOnce .modinv { status := .errEven, add := false, shift := 0#6, value := 0#32 } s)) ∧
    (DivisorRange a → a.toInt % 2 = 1 → ∃ t, exec (.modinv a b) s = .next t ∧ t.phase = .busy)

/-- R173: one ITERATE of MODINV responds with `W.xn` once `W.t = 1`; otherwise `W.xn` becomes `xn * (2 - t)` and `W.t`
the product of the divisor and the NEW `W.xn`, both modulo `2^32`. Nothing else changes. That W keeps its values once
the phase is RESP is the model's (log 11). -/
def Obligations.ModinvIterateNewton : Prop :=
  ∀ s : State, s.host.levels.rst = false → s.phase = .busy → s.w.op = .modinv →
    (s.w.t = 1#32 →
      ∃ t, step s = .next t ∧ t.phase = .resp ∧ t.w = s.w ∧
        t.rsp = packResponse { status := .ok, add := false, shift := 0#6, value := s.w.xn } ∧
        t.host = advanceLevels s.host ∧ t.freeCount = s.freeCount) ∧
    (s.w.t ≠ 1#32 →
      ∃ t, step s = .next t ∧ t.phase = .busy ∧ t.rsp = s.rsp ∧
        t.w = { s.w with xn := t.w.xn, t := t.w.t } ∧
        ((t.w.xn.toNat : Int) = (s.w.xn.toNat : Int) * (2 - (s.w.t.toNat : Int)) % 2 ^ 32) ∧
        t.w.xn = s.w.xn * (2#32 - s.w.t) ∧
        t.w.t.toNat = s.w.dv.toNat * t.w.xn.toNat % 2 ^ 32 ∧
        t.host = advanceLevels s.host ∧ t.freeCount = s.freeCount)

/-- R174, with R175: MODINV of an odd divisor completes within 5 iterations, and answers the unique `xn` with
`(du * xn) mod 2^32 = 1`, which is odd. -/
def Obligations.ModinvAnswersTheInverse : Prop :=
  ∀ (a b : OperandWord) (s : State), s.phase = .idle → ModinvDomain a →
    let du := (unsignedFold a.toInt).toNat
    ∃ (xn : Word) (k : Nat) (u : State), Reaches (.modinv a b) s k u ∧ 1 ≤ k ∧ k ≤ 5 ∧ u.phase = .resp ∧
      u.rsp = packResponse { status := .ok, add := false, shift := 0#6, value := xn } ∧
      du * xn.toNat % 2 ^ 32 = 1 ∧ (∀ y : Word, du * y.toNat % 2 ^ 32 = 1 → y = xn) ∧ xn.toNat % 2 = 1 ∧
      SameOutside s u

/-- R170, R175: MODINV answers without any update exactly for the four divisors whose square is 1 modulo `2^32`. -/
def Obligations.ModinvSelfInverseDivisors : Prop :=
  ∀ (a b : OperandWord) (s : State) (k : Nat) (u : State), s.phase = .idle → ModinvDomain a →
    Reaches (.modinv a b) s k u →
    let du := (unsignedFold a.toInt).toNat
    (k = 1 ↔ du = 1 ∨ du = 2 ^ 31 - 1 ∨ du = 2 ^ 31 + 1 ∨ du = 2 ^ 32 - 1)

/-- R191: a word multiplied by an odd divisor is divided exactly by one multiplication with MODINV's answer. -/
def Obligations.InverseDividesExactly : Prop :=
  ∀ (a b : OperandWord) (s : State), s.phase = .idle → ModinvDomain a →
    let du := (unsignedFold a.toInt).toNat
    ∃ k u, Reaches (.modinv a b) s k u ∧
      (unpackResponse u.rsp).status = .ok ∧
      ∀ m : Word, mul32 (mul32 m.toNat du).toNat (unpackResponse u.rsp).value.toNat = m

/-! ## Operands and responses of all commands (30_encoding, 44_laws, 60_exceptions, 70_reset) -/

/-- R76 to R78: for an in-range operand both folds are readings of the effective divisor `a[31:0]`. -/
def Obligations.FoldsReadTheEffectiveDivisor : Prop :=
  ∀ a : OperandWord, DivisorRange a →
    signedFold a.toInt = (effectiveDivisor a).toInt ∧ -2 ^ 31 ≤ signedFold a.toInt ∧
    signedFold a.toInt ≤ 2 ^ 31 - 1 ∧ unsignedFold a.toInt = ((effectiveDivisor a).toNat : Int) ∧
    0 ≤ unsignedFold a.toInt ∧ unsignedFold a.toInt ≤ 2 ^ 32 - 1

/-- R73: the fields a command does not use do not change what it does. -/
def Obligations.UnusedFieldsAreIgnored : Prop :=
  (∀ (a b b' : OperandWord) (s : State),
    exec (.smagic a b) s = exec (.smagic a b') s ∧ exec (.umagic a b) s = exec (.umagic a b') s ∧
    exec (.modinv a b) s = exec (.modinv a b') s) ∧
  ∀ (ah al bh bl ah' bh' : Word) (s : State),
    exec (.mul32 (ah ++ al) (bh ++ bl)) s = exec (.mul32 (ah' ++ al) (bh' ++ bl)) s

/-- R192: the divisor commands are functions of the effective divisor: an operand and the same operand moved by `2^32`
inside the range are one command, in the machine's step and in its result function. -/
def Obligations.NormalisationLaws : Prop :=
  (∀ (a b : OperandWord) (s : State), 2 ^ 31 ≤ a.toInt → a.toInt ≤ 2 ^ 32 - 1 →
    exec (.smagic a b) s = exec (.smagic (a - 0x100000000#64) b) s ∧
      resultSmagic a = resultSmagic (a - 0x100000000#64)) ∧
  (∀ (a b : OperandWord) (s : State), -2 ^ 31 ≤ a.toInt → a.toInt ≤ -1 →
    exec (.umagic a b) s = exec (.umagic (a + 0x100000000#64) b) s ∧
      resultUmagic a = resultUmagic (a + 0x100000000#64) ∧
      exec (.modinv a b) s = exec (.modinv (a + 0x100000000#64) b) s ∧
      resultModinv a = resultModinv (a + 0x100000000#64)) ∧
  (∀ (a a' b b' : OperandWord) (s : State), a.extractLsb' 0 32 = a'.extractLsb' 0 32 →
    b.extractLsb' 0 32 = b'.extractLsb' 0 32 →
    exec (.mul32 a b) s = exec (.mul32 a' b') s ∧ resultMul32 a b = resultMul32 a' b') ∧
  ∀ a : OperandWord, ¬ DivisorRange a →
    resultSmagic a = some { status := .errRange, add := false, shift := 0#6, value := 0#32 } ∧
    resultUmagic a = some { status := .errRange, add := false, shift := 0#6, value := 0#32 } ∧
    resultModinv a = some { status := .errRange, add := false, shift := 0#6, value := 0#32 }

/-- R79, R83: the response fields each command can produce: an error carries nothing but its status, the shift is at most
32, and by command: MUL32 no error, add or shift; SMAGIC no add, shift at most 30, value not 0; UMAGIC shift at most 32;
MODINV no add or shift, value odd. -/
def Obligations.ResponseFieldsByCommand : Prop :=
  ∀ (i : Instr) (s : State) (k : Nat) (u : State), s.phase = .idle → Reaches i s k u →
    let r := unpackResponse u.rsp
    r.wellFormed = true ∧
    (r.status ≠ .ok → r.add = false ∧ r.shift = 0#6 ∧ r.value = 0#32 ∧ k = 0) ∧
    (r.status = .ok →
      match i.opcode with
      | .mul32 => r.add = false ∧ r.shift = 0#6 ∧ k = 0
      | .smagic => r.add = false ∧ r.shift.toNat ≤ 30 ∧ r.value ≠ 0#32 ∧ k = r.shift.toNat + 1
      | .umagic => r.shift.toNat ≤ 32 ∧ k = r.shift.toNat + 1
      | .modinv => r.add = false ∧ r.shift = 0#6 ∧ r.value.toNat % 2 = 1 ∧ 1 ≤ k ∧ k ≤ 5)

/-- R236 (a): a caller that does its duties sees no error, but for the one operand `2^32 - 1`, which SMAGIC answers with
ERR_DEGENERATE and the other commands accept. -/
def Obligations.DutifulCallerSeesOneError : Prop :=
  ∀ (v : Int) (i : Instr) (s : State) (k : Nat) (u : State), callerAccepts v = true → i ∈ callerCommands v →
    s.phase = .idle → Reaches i s k u →
    (unpackResponse u.rsp).status = if v = 2 ^ 32 - 1 ∧ i.opcode = .smagic then .errDegenerate else .ok

/-- R82: `MAGIC d` stands for SMAGIC, UMAGIC and, exactly when `d` is odd, MODINV, in that order; the parity of the
integer is bit 0 of the effective divisor. -/
def Obligations.MagicExpandsByParity : Prop :=
  ∀ v : Int, (SourceOperand.decimal v).wellFormed = true →
    let a := BitVec.ofInt 64 v
    ((effectiveDivisor a).getLsbD 0 = true ↔ v % 2 = 1) ∧
    assembleLine (.magic (.decimal v)) =
      some (if v % 2 = 1 then [encode (.smagic a 0#64), encode (.umagic a 0#64), encode (.modinv a 0#64)]
        else [encode (.smagic a 0#64), encode (.umagic a 0#64)])
end

