-- ==== Sys2Proof/Laws/State.lean ====
section
/-! SUPPORT. One lemma per field per update of State, of the working registers and of the host's side, each true by rfl,
so that no later proof unfolds a record update. -/

namespace Sys2Proof.Machine

variable (s : State) (w : Working) (h : HostSide) (ph : Phase) (op : Opcode) (r : Response)

/-! Updates of State. -/

@[simp] theorem withWorking_phase : (s.withWorking w).phase = s.phase := rfl
@[simp] theorem withWorking_w : (s.withWorking w).w = w := rfl
@[simp] theorem withWorking_rsp : (s.withWorking w).rsp = s.rsp := rfl
@[simp] theorem withWorking_host : (s.withWorking w).host = s.host := rfl
@[simp] theorem withWorking_freeCount : (s.withWorking w).freeCount = s.freeCount := rfl

@[simp] theorem withPhase_phase : (s.withPhase ph).phase = ph := rfl
@[simp] theorem withPhase_w : (s.withPhase ph).w = s.w := rfl
@[simp] theorem withPhase_rsp : (s.withPhase ph).rsp = s.rsp := rfl
@[simp] theorem withPhase_host : (s.withPhase ph).host = s.host := rfl
@[simp] theorem withPhase_freeCount : (s.withPhase ph).freeCount = s.freeCount := rfl

@[simp] theorem withHost_phase : (s.withHost h).phase = s.phase := rfl
@[simp] theorem withHost_w : (s.withHost h).w = s.w := rfl
@[simp] theorem withHost_rsp : (s.withHost h).rsp = s.rsp := rfl
@[simp] theorem withHost_host : (s.withHost h).host = h := rfl
@[simp] theorem withHost_freeCount : (s.withHost h).freeCount = s.freeCount := rfl

@[simp] theorem withOp_phase : (s.withOp op).phase = s.phase := rfl
@[simp] theorem withOp_w : (s.withOp op).w = { s.w with op := op } := rfl
@[simp] theorem withOp_rsp : (s.withOp op).rsp = s.rsp := rfl
@[simp] theorem withOp_host : (s.withOp op).host = s.host := rfl
@[simp] theorem withOp_freeCount : (s.withOp op).freeCount = s.freeCount := rfl

@[simp] theorem respond_phase : (respond r s).phase = .resp := rfl
@[simp] theorem respond_w : (respond r s).w = s.w := rfl
@[simp] theorem respond_rsp : (respond r s).rsp = packResponse r := rfl
@[simp] theorem respond_host : (respond r s).host = s.host := rfl
@[simp] theorem respond_freeCount : (respond r s).freeCount = s.freeCount := rfl

@[simp] theorem endStep_phase : (endStep s).phase = s.phase := rfl
@[simp] theorem endStep_w : (endStep s).w = s.w := rfl
@[simp] theorem endStep_rsp : (endStep s).rsp = s.rsp := rfl
@[simp] theorem endStep_host : (endStep s).host = advanceLevels s.host := rfl
@[simp] theorem endStep_freeCount : (endStep s).freeCount = s.freeCount := rfl

@[simp] theorem endAccept_phase (cw : CommandWord) : (endAccept cw s).phase = s.phase := rfl
@[simp] theorem endAccept_w (cw : CommandWord) : (endAccept cw s).w = s.w := rfl
@[simp] theorem endAccept_rsp (cw : CommandWord) : (endAccept cw s).rsp = s.rsp := rfl
@[simp] theorem endAccept_host (cw : CommandWord) :
    (endAccept cw s).host = advanceLevels (commandAccepted cw s.host) := rfl
@[simp] theorem endAccept_freeCount (cw : CommandWord) : (endAccept cw s).freeCount = s.freeCount := rfl

@[simp] theorem takeResponse_phase : (takeResponse s).phase = .idle := rfl
@[simp] theorem takeResponse_w : (takeResponse s).w = s.w := rfl
@[simp] theorem takeResponse_rsp : (takeResponse s).rsp = s.rsp := rfl
@[simp] theorem takeResponse_host : (takeResponse s).host = receiveResponse s.rsp s.host := rfl
@[simp] theorem takeResponse_freeCount : (takeResponse s).freeCount = s.freeCount := rfl

@[simp] theorem resetMachine_phase : (resetMachine s).phase = .idle := rfl
@[simp] theorem resetMachine_w : (resetMachine s).w = unspecifiedWorking s.freeCount := rfl
@[simp] theorem resetMachine_rsp : (resetMachine s).rsp = Config.unspecified 41 (s.freeCount + 12) := rfl
@[simp] theorem resetMachine_host : (resetMachine s).host = { s.host with issued := none } := rfl
@[simp] theorem resetMachine_freeCount : (resetMachine s).freeCount = s.freeCount + 13 := rfl

/-! Updates of the working registers. -/

variable (x : Search)

@[simp] theorem storeSearch_op : (storeSearch x w).op = w.op := rfl
@[simp] theorem storeSearch_neg : (storeSearch x w).neg = w.neg := rfl
@[simp] theorem storeSearch_dv : (storeSearch x w).dv = w.dv := rfl
@[simp] theorem storeSearch_nc : (storeSearch x w).nc = w.nc := rfl
@[simp] theorem storeSearch_p : (storeSearch x w).p = BitVec.ofNat 7 x.p := rfl
@[simp] theorem storeSearch_q1 : (storeSearch x w).q1 = BitVec.ofNat 64 x.q1 := rfl
@[simp] theorem storeSearch_r1 : (storeSearch x w).r1 = BitVec.ofNat 64 x.r1 := rfl
@[simp] theorem storeSearch_q2 : (storeSearch x w).q2 = BitVec.ofNat 64 x.q2 := rfl
@[simp] theorem storeSearch_r2 : (storeSearch x w).r2 = BitVec.ofNat 64 x.r2 := rfl
@[simp] theorem storeSearch_af : (storeSearch x w).af = w.af := rfl
@[simp] theorem storeSearch_xn : (storeSearch x w).xn = w.xn := rfl
@[simp] theorem storeSearch_t : (storeSearch x w).t = w.t := rfl

variable (c : Nat)

@[simp] theorem doubleRegisters_op : (doubleRegisters c w).op = w.op := rfl
@[simp] theorem doubleRegisters_neg : (doubleRegisters c w).neg = w.neg := rfl
@[simp] theorem doubleRegisters_dv : (doubleRegisters c w).dv = w.dv := rfl
@[simp] theorem doubleRegisters_nc : (doubleRegisters c w).nc = w.nc := rfl
@[simp] theorem doubleRegisters_af : (doubleRegisters c w).af = w.af := rfl
@[simp] theorem doubleRegisters_xn : (doubleRegisters c w).xn = w.xn := rfl
@[simp] theorem doubleRegisters_t : (doubleRegisters c w).t = w.t := rfl

variable (D : Word)

@[simp] theorem loadSmagic_op : (loadSmagic D w).op = w.op := rfl
@[simp] theorem loadSmagic_neg : (loadSmagic D w).neg = decide (D.toInt < 0) := rfl
@[simp] theorem loadSmagic_dv : (loadSmagic D w).dv = BitVec.ofNat 32 D.toInt.natAbs := rfl
@[simp] theorem loadSmagic_af : (loadSmagic D w).af = w.af := rfl
@[simp] theorem loadSmagic_xn : (loadSmagic D w).xn = w.xn := rfl
@[simp] theorem loadSmagic_t : (loadSmagic D w).t = w.t := rfl

@[simp] theorem loadUmagic_op : (loadUmagic D w).op = w.op := rfl
@[simp] theorem loadUmagic_neg : (loadUmagic D w).neg = w.neg := rfl
@[simp] theorem loadUmagic_dv : (loadUmagic D w).dv = D := rfl
@[simp] theorem loadUmagic_af : (loadUmagic D w).af = false := rfl
@[simp] theorem loadUmagic_xn : (loadUmagic D w).xn = w.xn := rfl
@[simp] theorem loadUmagic_t : (loadUmagic D w).t = w.t := rfl

@[simp] theorem loadModinv_op : (loadModinv D w).op = w.op := rfl
@[simp] theorem loadModinv_dv : (loadModinv D w).dv = D := rfl
@[simp] theorem loadModinv_xn : (loadModinv D w).xn = D := rfl
@[simp] theorem loadModinv_t : (loadModinv D w).t = mul32 D.toNat D.toNat := rfl

/-! Updates of the host's side. -/

variable (cw : CommandWord)

@[simp] theorem commandAccepted_levels : (commandAccepted cw h).levels = h.levels := rfl
@[simp] theorem commandAccepted_plan : (commandAccepted cw h).plan = h.plan := rfl
@[simp] theorem commandAccepted_offers : (commandAccepted cw h).offers = h.offers.tail := rfl
@[simp] theorem commandAccepted_issued : (commandAccepted cw h).issued = some cw := rfl
@[simp] theorem commandAccepted_observed : (commandAccepted cw h).observed = h.observed := rfl

@[simp] theorem advanceLevels_offers : (advanceLevels h).offers = h.offers := by
  unfold advanceLevels; split <;> rfl
@[simp] theorem advanceLevels_issued : (advanceLevels h).issued = h.issued := by
  unfold advanceLevels; split <;> rfl
@[simp] theorem advanceLevels_observed : (advanceLevels h).observed = h.observed := by
  unfold advanceLevels; split <;> rfl
theorem advanceLevels_of_no_plan (hp : h.plan = []) : advanceLevels h = h := by
  simp [advanceLevels, hp]

@[simp] theorem receiveResponse_levels (rw : ResponseWord) : (receiveResponse rw h).levels = h.levels := by
  unfold receiveResponse; split <;> rfl
@[simp] theorem receiveResponse_plan (rw : ResponseWord) : (receiveResponse rw h).plan = h.plan := by
  unfold receiveResponse; split <;> rfl
@[simp] theorem receiveResponse_offers (rw : ResponseWord) : (receiveResponse rw h).offers = h.offers := by
  unfold receiveResponse; split <;> rfl
@[simp] theorem receiveResponse_issued (rw : ResponseWord) : (receiveResponse rw h).issued = none := by
  unfold receiveResponse; split <;> simp_all

/-! Outcomes. -/

@[simp] theorem mapNext_next (f : State → State) : mapNext f (.next s) = .next (f s) := rfl
@[simp] theorem mapNext_fault (f : State → State) (e : Fault) : mapNext f (.fault e) = .fault e := rfl
@[simp] theorem mapNext_refused (f : State → State) (e : Refusal) : mapNext f (.refused e) = .refused e := rfl

end Sys2Proof.Machine
end

