-- ==== Sys2Proof/Laws/Ops.lean ====
section
/-! SUPPORT. For each shared operation one lemma that says once everything it can do; proofs cite these instead of
unfolding. -/

namespace Sys2Proof.Machine

/-- An outcome changed by `f` is a next state exactly where the outcome was one. -/
theorem mapNext_eq_next {f : State → State} {o : Host.Outcome State Fault Refusal} {t : State} :
    mapNext f o = .next t ↔ ∃ s, o = .next s ∧ t = f s := by
  cases o <;> simp [mapNext, eq_comm]

/-- ACCEPT (10_state R29): in IDLE the command starts, elsewhere it is held off; never a fault or a refusal. -/
theorem acceptCommand_cases (op : Opcode) (start : State → State) (s : State) :
    (s.phase = .idle ∧ acceptCommand op start s = .next (start (s.withOp op))) ∨
      (s.phase ≠ .idle ∧ acceptCommand op start s = .next s) := by
  by_cases h : s.phase = .idle <;> simp [acceptCommand, h]

theorem acceptCommand_idle {op : Opcode} {start : State → State} {s : State} (h : s.phase = .idle) :
    acceptCommand op start s = .next (start (s.withOp op)) := by simp [acceptCommand, h]

theorem acceptCommand_held {op : Opcode} {start : State → State} {s : State} (h : s.phase ≠ .idle) :
    acceptCommand op start s = .next s := by simp [acceptCommand, h]

/-- A divisor command's start: the domain error alone, or the loaded registers and BUSY. -/
theorem startDivisorCommand_cases (own : Word → Option Status) (load : Word → Working → Working) (a : OperandWord)
    (s : State) :
    (∃ code, divisorError own a = some code ∧ startDivisorCommand own load a s = raiseDomainError code s) ∨
      (divisorError own a = none ∧
        startDivisorCommand own load a s = (s.withWorking (load (effectiveDivisor a) s.w)).withPhase .busy) := by
  cases h : divisorError own a <;> simp [startDivisorCommand, h]

/-- The operand check: out of range whatever the rest, else the command's own condition (60_exceptions R203). -/
theorem divisorError_cases (own : Word → Option Status) (a : OperandWord) :
    (divisorInRange a = false ∧ divisorError own a = some .errRange) ∨
      (divisorInRange a = true ∧ divisorError own a = own (effectiveDivisor a)) := by
  cases h : divisorInRange a <;> simp [divisorError, h]

theorem divisorInRange_iff (a : OperandWord) : divisorInRange a = true ↔ -2 ^ 31 ≤ a.toInt ∧ a.toInt ≤ 2 ^ 32 - 1 :=
  decide_eq_true_iff

/-- ITERATE (10_state R30): the fault in the one case without a rule, else the command's iteration. -/
theorem iterate_cases (s : State) :
    (s.w.op = .mul32 ∧ iterate s = .fault .iterateWithoutLoop) ∨
      (s.w.op = .smagic ∧ iterate s = .next (iterateSmagic s)) ∨
      (s.w.op = .umagic ∧ iterate s = .next (iterateUmagic s)) ∨
      (s.w.op = .modinv ∧ iterate s = .next (iterateModinv s)) := by
  cases h : s.w.op <;> simp [iterate, h]

/-- One iteration of SMAGIC (41_smagic R115, R117): the doubled registers, and either BUSY still or the response. -/
theorem iterateSmagic_cases (s : State) :
    let w := doubleRegisters 0 s.w
    let goesOn := searchContinues w.q1.toNat w.r1.toNat (smagicDelta w.dv.toNat w.r2.toNat)
    (goesOn = true ∧ iterateSmagic s = s.withWorking w) ∨
      (goesOn = false ∧
        iterateSmagic s = respond (smagicResponse w.neg w.p.toNat w.q2.toNat) (s.withWorking w)) := by
  intro w goesOn
  cases g : goesOn
  · exact .inr ⟨rfl, if_neg (Bool.eq_false_iff.1 g)⟩
  · exact .inl ⟨rfl, if_pos g⟩

/-- One iteration of UMAGIC (42_umagic R145, R146). -/
theorem iterateUmagic_cases (s : State) :
    let w := { doubleRegisters 1 s.w with af := s.w.af || addRaised s.w.q2.toNat }
    let goesOn :=
      underCap w.p.toNat && searchContinues w.q1.toNat w.r1.toNat (umagicDelta w.dv.toNat w.r2.toNat)
    (goesOn = true ∧ iterateUmagic s = s.withWorking w) ∨
      (goesOn = false ∧ iterateUmagic s = respond (umagicResponse w.af w.p.toNat w.q2.toNat) (s.withWorking w)) := by
  intro w goesOn
  cases g : goesOn
  · exact .inr ⟨rfl, if_neg (Bool.eq_false_iff.1 g)⟩
  · exact .inl ⟨rfl, if_pos g⟩

/-- One iteration of MODINV (43_modinv R173). -/
theorem iterateModinv_cases (s : State) :
    (s.w.t = 1#32 ∧ iterateModinv s = respond (valueResponse s.w.xn) s) ∨
      (s.w.t ≠ 1#32 ∧
        iterateModinv s =
          s.withWorking
            { s.w with
              xn := newtonUpdate s.w.xn s.w.t
              t := mul32 s.w.dv.toNat (newtonUpdate s.w.xn s.w.t).toNat }) := by
  by_cases h : s.w.t = 1#32
  · exact .inl ⟨h, if_pos h⟩
  · exact .inr ⟨h, if_neg h⟩

/-- Doubling keeps a pair the quotient and remainder: from those of `N` by `n` to those of `2*N + c`, for a carry of 0 or
1 (41_smagic R116, 42_umagic R147). -/
theorem doublePair_quotient_remainder {n c N : Nat} (hn : 0 < n) (hc : c ≤ 1) :
    doublePair n c (N / n) (N % n) = ((2 * N + c) / n, (2 * N + c) % n) := by
  have hr := Nat.mod_lt N hn
  have hN := Nat.div_add_mod N n
  generalize N / n = q at *
  generalize N % n = r at *
  subst hN
  unfold doublePair
  split
  · have e : 2 * (n * q + r) + c = (2 * r + c - n) + n * (2 * q + 1) := by
      have : n * (2 * q + 1) = 2 * (n * q) + n := by ring
      omega
    rw [e, Nat.add_mul_div_left _ _ hn, Nat.add_mul_mod_self_left, Nat.div_eq_of_lt (by omega),
      Nat.mod_eq_of_lt (by omega), Nat.zero_add]
  · have e : 2 * (n * q + r) + c = (2 * r + c) + n * (2 * q) := by
      have : n * (2 * q) = 2 * (n * q) := by ring
      omega
    rw [e, Nat.add_mul_div_left _ _ hn, Nat.add_mul_mod_self_left, Nat.div_eq_of_lt (by omega),
      Nat.mod_eq_of_lt (by omega), Nat.zero_add]

/-- The step of RESET (70_reset R230). -/
theorem step_reset {s : State} (h : s.host.levels.rst = true) : step s = .next (endStep (resetMachine s)) := by
  simp [step, h]

/-- The step in IDLE with a command offered is ACCEPT of the decoded command. -/
theorem step_idle_offered {s : State} {cw : CommandWord} (hr : s.host.levels.rst = false) (hp : s.phase = .idle)
    (ho : offeredWord s.host = some cw) : step s = mapNext (endAccept cw) (exec (decode cw) s) := by
  simp [step, hr, hp, ho]

/-- The step in IDLE with nothing offered changes nothing but the host's levels. -/
theorem step_idle_quiet {s : State} (hr : s.host.levels.rst = false) (hp : s.phase = .idle)
    (ho : offeredWord s.host = none) : step s = .next (endStep s) := by
  simp [step, hr, hp, ho]

/-- The step in BUSY is ITERATE. -/
theorem step_busy {s : State} (hr : s.host.levels.rst = false) (hp : s.phase = .busy) :
    step s = mapNext endStep (iterate s) := by
  simp [step, hr, hp]

/-- The step in RESP is TAKE where the host is ready, and otherwise changes nothing but the host's levels. -/
theorem step_resp {s : State} (hr : s.host.levels.rst = false) (hp : s.phase = .resp) :
    step s = .next (endStep (if s.host.levels.rspReady then takeResponse s else s)) := by
  cases h : s.host.levels.rspReady <;> simp [step, hr, hp, h]

/-- Everything one step can do. -/
theorem step_cases {s t : State} (h : step s = .next t) :
    (s.host.levels.rst = true ∧ t = endStep (resetMachine s)) ∨
      (s.host.levels.rst = false ∧ s.phase = .idle ∧ ∃ cw u, offeredWord s.host = some cw ∧
        exec (decode cw) s = .next u ∧ t = endAccept cw u) ∨
      (s.host.levels.rst = false ∧ s.phase = .idle ∧ offeredWord s.host = none ∧ t = endStep s) ∨
      (s.host.levels.rst = false ∧ s.phase = .busy ∧ ∃ u, iterate s = .next u ∧ t = endStep u) ∨
      (s.host.levels.rst = false ∧ s.phase = .resp ∧ s.host.levels.rspReady = true ∧ t = endStep (takeResponse s)) ∨
      (s.host.levels.rst = false ∧ s.phase = .resp ∧ s.host.levels.rspReady = false ∧ t = endStep s) := by
  cases hr : s.host.levels.rst
  · cases hp : s.phase
    · cases ho : offeredWord s.host with
      | none =>
        rw [step_idle_quiet hr hp ho] at h
        cases h
        simp
      | some cw =>
        rw [step_idle_offered hr hp ho, mapNext_eq_next] at h
        obtain ⟨u, hu, rfl⟩ := h
        exact .inr (.inl ⟨rfl, rfl, cw, u, rfl, hu, rfl⟩)
    · rw [step_busy hr hp, mapNext_eq_next] at h
      obtain ⟨u, hu, rfl⟩ := h
      exact .inr (.inr (.inr (.inl ⟨rfl, rfl, u, hu, rfl⟩)))
    · rw [step_resp hr hp] at h
      cases h
      cases hy : s.host.levels.rspReady <;> simp
  · rw [step_reset hr] at h
    cases h
    simp

/-- `runEngine` one ITERATE step at a time. -/
theorem runEngine_succ {k : Nat} {s u : State} :
    runEngine (k + 1) s = some u ↔ s.phase = .busy ∧ ∃ t, iterate s = .next t ∧ runEngine k t = some u := by
  by_cases hp : s.phase = .busy
  · cases h : iterate s <;> simp [runEngine, hp, h]
  · simp [runEngine, hp]

theorem runEngine_zero {s u : State} : runEngine 0 s = some u ↔ s.phase = .resp ∧ s = u := by
  by_cases hp : s.phase = .resp <;> simp [runEngine, hp]

/-- Where the engine's run ends, the response is pending. -/
theorem runEngine_phase {k : Nat} {s u : State} (h : runEngine k s = some u) : u.phase = .resp := by
  induction k generalizing s with
  | zero => obtain ⟨hp, rfl⟩ := runEngine_zero.1 h; exact hp
  | succ k ih => obtain ⟨_, t, _, ht⟩ := runEngine_succ.1 h; exact ih ht

/-- ITERATE touches neither the host's side nor the model's counter. -/
theorem iterate_sameOutside {s t : State} (h : iterate s = .next t) : SameOutside s t := by
  rcases iterate_cases s with ⟨_, e⟩ | ⟨_, e⟩ | ⟨_, e⟩ | ⟨_, e⟩ <;> rw [e] at h <;> cases h
  · rcases iterateSmagic_cases s with ⟨_, e⟩ | ⟨_, e⟩ <;> rw [e] <;> exact ⟨rfl, rfl⟩
  · rcases iterateUmagic_cases s with ⟨_, e⟩ | ⟨_, e⟩ <;> rw [e] <;> exact ⟨rfl, rfl⟩
  · rcases iterateModinv_cases s with ⟨_, e⟩ | ⟨_, e⟩ <;> rw [e] <;> exact ⟨rfl, rfl⟩

/-- The engine's run touches neither the host's side nor the model's counter. -/
theorem runEngine_sameOutside {k : Nat} {s u : State} (h : runEngine k s = some u) : SameOutside s u := by
  induction k generalizing s with
  | zero => obtain ⟨_, rfl⟩ := runEngine_zero.1 h; exact ⟨rfl, rfl⟩
  | succ k ih =>
    obtain ⟨_, t, hi, ht⟩ := runEngine_succ.1 h
    have h1 := iterate_sameOutside hi
    have h2 := ih ht
    exact ⟨h2.1.trans h1.1, h2.2.trans h1.2⟩

end Sys2Proof.Machine
end

