-- ==== Sys2Proof/Laws/PerInstr.lean ====
section
/-! SUPPORT. Statements about every command as syntax, one lemma per constructor of Instr. -/

namespace Sys2Proof.Laws

/-- The opcode field of a command's word is its opcode number (30_encoding R72), and the command is well formed
(R79). -/
def OpcodeField.Statement (i : Instr) : Prop := fieldOp (encode i) = opcodeBits i.opcode ∧ i.wellFormed = true

theorem opcodeField_of_append (op : BitVec 2) (b a : OperandWord) : fieldOp (op ++ b ++ a) = op := by
  apply BitVec.eq_of_getLsbD_eq
  intro i hi
  have h1 : ¬ 128 + i < 64 := by omega
  have h2 : ¬ 128 + i - 64 < 64 := by omega
  have h3 : 128 + i - 64 - 64 = i := by omega
  have e : (op ++ b ++ a).getLsbD (128 + i) = op.getLsbD i := by
    rw [BitVec.getLsbD_append, BitVec.getLsbD_append, if_neg h1, if_neg h2, h3]
  simpa [fieldOp, hi] using e

theorem OpcodeField.mul32 (a b : OperandWord) : OpcodeField.Statement (.mul32 a b) := ⟨opcodeField_of_append _ _ _, rfl⟩

theorem OpcodeField.smagic (a b : OperandWord) : OpcodeField.Statement (.smagic a b) := ⟨opcodeField_of_append _ _ _, rfl⟩

theorem OpcodeField.umagic (a b : OperandWord) : OpcodeField.Statement (.umagic a b) := ⟨opcodeField_of_append _ _ _, rfl⟩

theorem OpcodeField.modinv (a b : OperandWord) : OpcodeField.Statement (.modinv a b) := ⟨opcodeField_of_append _ _ _, rfl⟩

end Sys2Proof.Laws
end

