-- ==== Sys2Proof/Tests/Slice0.lean ====
section
/-! SUPPORT. The model's own tests: smoke tests of the well-formedness checks, decoding of words written out from the
spec, single steps against the worked values of spec/95_test_vectors.md, and a witness for the hypotheses of every
statement that has some. Expected values are the spec's; each test names their place. -/

namespace Sys2Proof.Tests

open Sys2Proof.Machine

/-! ## Helpers: small states -/

/-- The next state of an outcome. -/
def nextOf : Host.Outcome State Fault Refusal → Option State
  | .next s => some s
  | _ => none

/-- Reset, with a host that offers `words`, is ready for responses or not, and never resets. -/
def offering (words : List CommandWord) (ready : Bool) : State :=
  { State.reset with
    host := { HostSide.quiet with
      levels := { rst := false, cmdValid := true, rspReady := ready }
      offers := words } }

/-- BUSY with given working registers, waiting for the response to `cw`. -/
def busyWith (cw : CommandWord) (w : Working) : State :=
  { State.reset with phase := .busy, w := w, host := { HostSide.quiet with issued := some cw } }

/-- RESP with a given response, pending for `cw`. -/
def pending (cw : CommandWord) (rw : ResponseWord) (ready : Bool) : State :=
  { State.reset with
    phase := .resp
    rsp := rw
    host := { HostSide.quiet with
      levels := { rst := false, cmdValid := false, rspReady := ready }
      issued := some cw } }

/-- A state with `rst` asserted. -/
def inReset (s : State) : State :=
  { s with host := { s.host with levels := { rst := true, cmdValid := true, rspReady := true } } }

/-- The registers of SMAGIC 7 after ACCEPT (41_smagic R119). -/
def smagic7 : Working :=
  { Working.zero with op := .smagic, dv := 7#32, nc := 2147483645#32, p := 31#7, q1 := 1#64, r1 := 3#64, q2 := 306783378#64, r2 := 2#64 }

/-- The registers of SMAGIC 2 after ACCEPT (95_test_vectors section 3). -/
def smagic2 : Working :=
  { Working.zero with op := .smagic, dv := 2#32, nc := 2147483647#32, p := 31#7, q1 := 1#64, r1 := 1#64, q2 := 1073741824#64, r2 := 0#64 }

/-- The registers of UMAGIC 7 after ACCEPT (42_umagic R150). -/
def umagic7 : Working :=
  { Working.zero with op := .umagic, dv := 7#32, nc := 4294967291#32, p := 31#7, q1 := 0#64, r1 := 2147483648#64, q2 := 306783378#64, r2 := 1#64 }

/-- The registers of UMAGIC 7 after its third ITERATE (42_umagic R150). -/
def umagic7Late : Working :=
  { umagic7 with p := 34#7, q1 := 4#64, r1 := 20#64, q2 := 2454267026#64, r2 := 1#64 }

/-- The registers of UMAGIC 4294967294 at `p = 63` (42_umagic R150). -/
def umagicLast : Working :=
  { Working.zero with op := .umagic, dv := 4294967294#32, nc := 4294967293#32, p := 63#7, q1 := 2147483649#64, r1 := 2147483651#64, q2 := 2147483649#64, r2 := 1#64 }

/-- The registers of MODINV 1 after ACCEPT. -/
def modinv1 : Working := { Working.zero with op := .modinv, dv := 1#32, xn := 1#32, t := 1#32 }

/-- The registers of MODINV 0xDEADBEEF after ACCEPT (95_test_vectors P4). -/
def modinvP4 : Working :=
  { Working.zero with op := .modinv, dv := 0xDEADBEEF#32, xn := 0xDEADBEEF#32, t := 0x216DA321#32 }

/-! ## Well-formedness: each check refuses an ill-formed term -/

theorem test_wf_every_command : (Instr.smagic 0#64 0xFFFFFFFFFFFFFFFF#64).wellFormed = true := by decide
theorem test_wf_shift_33 : ({ status := .ok, add := false, shift := 33#6, value := 1#32 } : Response).wellFormed = false := by decide
theorem test_wf_error_with_add : ({ status := .errEven, add := true, shift := 0#6, value := 0#32 } : Response).wellFormed = false := by decide
theorem test_wf_error_with_shift : ({ status := .errRange, add := false, shift := 1#6, value := 0#32 } : Response).wellFormed = false := by decide
theorem test_wf_error_with_value : ({ status := .errRange, add := false, shift := 0#6, value := 7#32 } : Response).wellFormed = false := by decide
theorem test_wf_decimal_too_great : (SourceOperand.decimal (2 ^ 63)).wellFormed = false := by decide
theorem test_wf_decimal_too_small : (SourceOperand.decimal (-2 ^ 63 - 1)).wellFormed = false := by decide
theorem test_wf_hex_too_long : (SourceOperand.hex 0x10000000000000000).wellFormed = false := by decide
theorem test_wf_line : (SourceLine.mul32 (.decimal 1) (.hex 0x10000000000000000)).wellFormed = false := by decide

/-! ## Decoding (95_test_vectors sections 2 to 6): the words as the spec writes them -/

theorem test_decode_mul32 : decode 0x000000002B6DB6DB70000000100000007#130 = .mul32 0x100000007#64 0x2B6DB6DB7#64 := by decide
theorem test_decode_smagic : decode 0x10000000000000000FFFFFFFF80000000#130 = .smagic 0xFFFFFFFF80000000#64 0#64 := by decide
theorem test_decode_umagic : decode 0x2123456789ABCDEF00000000000000007#130 = .umagic 7#64 0x123456789ABCDEF0#64 := by decide
theorem test_decode_modinv : decode 0x300000000000000010000000000000007#130 = .modinv 7#64 1#64 := by decide
theorem test_encode_mul32 : encode (.mul32 0xDEADBEEF#64 0xCAFEBABE#64) = 0x000000000CAFEBABE00000000DEADBEEF#130 := by decide
theorem test_decode_table_word : decodeTableWord 136 0x100000000000000000000000000000007 = some (.smagic 7#64 0#64) := by decide
theorem test_decode_table_word_too_long : decodeTableWord 136 (2 ^ 130) = none := by decide

/-- The word of SMAGIC 1 with all of `b` set, bit by bit (30_encoding R71, R72). -/
theorem test_decode_bits :
    decode (0b01#2 ++ 0b1111111111111111111111111111111111111111111111111111111111111111#64 ++
      0b0000000000000000000000000000000000000000000000000000000000000001#64) =
      .smagic 1#64 0xFFFFFFFFFFFFFFFF#64 := by decide

/-- A response word (95_test_vectors section 4, UMAGIC 7). -/
theorem test_unpack : unpackResponse 0x04324924925#41 = { status := .ok, add := true, shift := 3#6, value := 0x24924925#32 } := by
  decide

/-! ## One step each -/

/-- MUL32 as the first command after reset (95_test_vectors section 2). -/
theorem test_mul32_first :
    (nextOf (step (State.reset.withFetchWord 136 0x0000000009ABCDEF00000000012345678))).map (fun t => (t.phase, t.rsp)) =
      some (.resp, 0x000242D2080#41) := by decide

/-- MUL32 reads negative operands by their low halves (95_test_vectors section 2). -/
theorem test_mul32_negative :
    (nextOf (exec (.mul32 (BitVec.ofInt 64 (-3)) 5#64) State.reset)).map (·.rsp) = some 0x000FFFFFFF1#41 := by decide

/-- ACCEPT of SMAGIC -3 (95_test_vectors P5, step 6). -/
theorem test_smagic_accept :
    (nextOf (exec (.smagic (BitVec.ofInt 64 (-3)) 0#64) State.reset)).map (·.w) =
      some { Working.zero with
        op := .smagic, neg := true, dv := 3#32, nc := 2147483648#32, p := 31#7, q1 := 1#64, r1 := 0#64,
        q2 := 715827882#64, r2 := 2#64 } := by decide

/-- The one ITERATE of SMAGIC 2 (95_test_vectors section 3). -/
theorem test_smagic_iterate : (nextOf (iterate (busyWith 0#130 smagic2))).map (·.rsp) = some 0x00080000001#41 := by decide

/-- ACCEPT of UMAGIC 4294967294 (95_test_vectors P5, step 1). -/
theorem test_umagic_accept :
    (nextOf (exec (.umagic 4294967294#64 0#64) State.reset)).map (·.w) =
      some { Working.zero with
        op := .umagic, dv := 4294967294#32, nc := 4294967293#32, p := 31#7, q1 := 0#64, r1 := 2147483648#64,
        q2 := 0#64, r2 := 2147483647#64 } := by decide

/-- The last ITERATE of UMAGIC 7 raises the add indicator (42_umagic R150). -/
theorem test_umagic_iterate : (nextOf (iterate (busyWith 0#130 umagic7Late))).map (·.rsp) = some 0x04324924925#41 := by decide

/-- ACCEPT of MODINV 0xDEADBEEF (95_test_vectors P4). -/
theorem test_modinv_accept :
    (nextOf (exec (.modinv 0xDEADBEEF#64 0#64) State.reset)).map (·.w) = some modinvP4 := by decide

/-- ITERATE 1 of MODINV 0xDEADBEEF (95_test_vectors P4). -/
theorem test_modinv_iterate :
    (nextOf (iterate (busyWith 0#130 modinvP4))).map (fun t => (t.w.xn, t.w.t)) =
      some (0x4DA0B40F#32, 0x6ECE3C01#32) := by decide

/-- Range wins over the command's own condition (95_test_vectors section 6). -/
theorem test_range_first :
    (nextOf (exec (.modinv 4294967298#64 0#64) State.reset)).map (·.rsp) = some 0x08000000000#41 := by decide

/-- A RESET in BUSY (95_test_vectors P5, step 5). -/
theorem test_reset_step :
    (nextOf (step (inReset (busyWith 5#130 umagic7)))).map (fun t => (t.phase, t.host.issued, t.host.observed)) =
      some (.idle, none, []) := by decide

/-- MAGIC 10 has no inverse (95_test_vectors P2). -/
theorem test_assemble_magic :
    assembleText ['M', 'A', 'G', 'I', 'C', ' ', '1', '0'] =
      some [0x10000000000000000000000000000000A#130, 0x20000000000000000000000000000000A#130] := by decide

/-- Two operands, a `0x` literal and a comment (30_encoding R81; 95_test_vectors section 2, `MUL32 -3, 0x5`). -/
theorem test_assemble_mul32 :
    assembleText ['M', 'U', 'L', '3', '2', ' ', '-', '3', ',', ' ', '0', 'x', '5', ' ', ';', 'y'] =
      some [0x00000000000000005FFFFFFFFFFFFFFFD#130] := by decide

/-- The caller's blanks and sign (70_reset R236). -/
theorem test_caller_parse : callerParse [' ', '+', '4', '2', ' '] = some 42 := by decide

/-- The signed sequence at `d = 7`, `n = -8` (95_test_vectors section 7). -/
theorem test_signed_sequence : signedSequence 7 0x92492493#32 2 0xFFFFFFF8#32 = 0xFFFFFFFF#32 := by decide

/-- The unsigned sequence at `du = 7`, `n = 0xFFFFFFFF` (95_test_vectors section 7). -/
theorem test_unsigned_sequence : unsignedSequence 0x24924925#32 true 3 0xFFFFFFFF#32 = 0x24924924#32 := by decide

/-! ## Witnesses for the hypotheses of the statements -/

/-- A run of the engine that is found by evaluation. -/
theorem reaches_of_eval {i : Instr} {s u : State} {k : Nat} (h : (nextOf (exec i s)).bind (runEngine k) = some u) :
    Reaches i s k u := by
  cases he : exec i s with
  | next t => exact ⟨t, he, by simpa [he, nextOf] using h⟩
  | fault e => simp [he, nextOf] at h
  | refused e => simp [he, nextOf] at h

/-- The final state of a run of `k` iterations, for the witnesses below. -/
def runTo (i : Instr) (k : Nat) (s : State) : Option State := (nextOf (exec i s)).bind (runEngine k)

theorem reaches_of_isSome {i : Instr} {s : State} {k : Nat} (h : (runTo i k s).isSome = true) : ∃ u, Reaches i s k u := by
  obtain ⟨u, hu⟩ := Option.isSome_iff_exists.1 h
  exact ⟨u, reaches_of_eval hu⟩

theorem test_witness_DecodeOfEncodeIsTheCommand : (Instr.mul32 (-1#64) 1#64).wellFormed = true := by decide

theorem test_witness_StepRunsTheOfferedCommand :
    let s := offering [0x100000000000000000000000000000007#130] true
    s.host.levels.rst = false ∧ s.phase = .idle ∧ s.host.levels.cmdValid = true ∧
      s.host.offers = [0x100000000000000000000000000000007#130] ∧
      decode 0x100000000000000000000000000000007#130 = .smagic 7#64 0#64 ∧ (Instr.smagic 7#64 0#64).wellFormed = true := by
  decide

/-- Phase changes of a step: from and to. -/
def phases (s : State) : Option (Phase × Phase) := (nextOf (step s)).map fun t => (s.phase, t.phase)

theorem test_witness_PhaseChangesOnlyAsStated_accept_busy :
    phases (offering [0x100000000000000000000000000000007#130] true) = some (.idle, .busy) := by decide
theorem test_witness_PhaseChangesOnlyAsStated_accept_resp :
    phases (offering [0x100000000000000000000000000000001#130] true) = some (.idle, .resp) := by decide
theorem test_witness_PhaseChangesOnlyAsStated_iterate : phases (busyWith 0#130 smagic2) = some (.busy, .resp) := by decide
theorem test_witness_PhaseChangesOnlyAsStated_take : phases (pending 0#130 0#41 true) = some (.resp, .idle) := by decide
theorem test_witness_PhaseChangesOnlyAsStated_reset :
    phases (inReset (busyWith 0#130 smagic2)) = some (.busy, .idle) := by decide

theorem test_witness_CommandsAreHeldOffOutsideIdle :
    (busyWith 0#130 smagic7).phase ≠ .idle ∧ (nextOf (step (busyWith 0#130 smagic7))).isSome = true := by decide

theorem test_witness_CommandsAreHeldOffOutsideIdle_accepted :
    (nextOf (step (offering [1#130, 2#130] true))).map (·.host.offers) = some [2#130] := by decide

theorem test_witness_TakeDeliversTheResponse_taken :
    let s := pending 3#130 9#41 true
    s.host.levels.rst = false ∧ s.phase = .resp ∧ s.host.issued = some 3#130 ∧ s.host.levels.rspReady = true := by decide
theorem test_witness_TakeDeliversTheResponse_pending :
    let s := pending 3#130 9#41 false
    s.host.levels.rst = false ∧ s.phase = .resp ∧ s.host.issued = some 3#130 ∧ s.host.levels.rspReady = false := by decide

theorem test_witness_ResetAbandonsTheCommand : (inReset (pending 3#130 9#41 true)).host.levels.rst = true := by decide

theorem test_witness_ResponseRegisterWrittenOnlyByResponding :
    (nextOf (step (busyWith 0#130 smagic2))).map (fun t => decide (t.rsp ≠ (busyWith 0#130 smagic2).rsp)) = some true ∧
      (busyWith 0#130 smagic2).host.levels.rst = false := by decide

/-- A host that plans two more steps in which it neither takes nor resets. -/
def stubborn : State :=
  { pending 3#130 9#41 false with
    host := { (pending 3#130 9#41 false).host with
      plan := [{ rst := false, cmdValid := true, rspReady := false }, { rst := false, cmdValid := false, rspReady := false }]
      offers := [7#130] } }

theorem test_witness_UntakenResponseBlocksForEver :
    stubborn.phase = .resp ∧ stubborn.host.levels.rst = false ∧ stubborn.host.levels.rspReady = false ∧
      ∀ l ∈ stubborn.host.plan, l.rst = false ∧ l.rspReady = false := by decide

theorem test_witness_ResponseDependsOnTheCommandAlone :
    State.reset.phase = .idle ∧ (offering [] true).phase = .idle ∧ ∃ u, Reaches (.smagic 2#64 0#64) State.reset 1 u :=
  ⟨rfl, rfl, reaches_of_isSome (by decide)⟩

theorem test_witness_StepsAgreeWithExec : State.reset.phase = .idle := by decide

theorem test_witness_HostObservesExecOfEveryCommand :
    (offering [1#130, 2#130] true).phase = .idle ∧ EagerHost (offering [1#130, 2#130] true).host := ⟨rfl, rfl, rfl⟩

/-- SMAGIC 7 just accepted is a state of the invariant. -/
theorem smagic7_busy : SmagicBusy smagic7 where
  dv_low := by decide
  dv_high := by decide
  bound := by decide
  p_low := by decide
  p_high := by decide
  quotient1 := by decide
  remainder1 := by decide
  quotient2 := by decide
  remainder2 := by decide
  not_stopped := fun k h1 h2 => absurd (Nat.le_trans h1 h2) (by decide)

/-- UMAGIC 7 just accepted is a state of the invariant. -/
theorem umagic7_busy : UmagicBusy umagic7 where
  dv_low := by decide
  bound := by decide
  p_low := by decide
  p_high := by decide
  quotient1 := by decide
  remainder1 := by decide
  quotient2 := by decide
  remainder2 := by decide
  add_indicator := by decide
  not_stopped := fun k h1 h2 => absurd (Nat.le_trans h1 h2) (by decide)

theorem modinv1_busy : ModinvBusy modinv1 where
  dv_odd := by decide
  product := by decide
  three_bits := by decide

/-- A BUSY state has the invariant if its registers belong to its command word. -/
theorem inv_of_busyWith {cw : CommandWord} {w : Working} (h : BusyWith cw w) : Inv (busyWith cw w) where
  waiting := by simp [busyWith]
  busy := fun _ => ⟨cw, rfl, h⟩
  resp := fun hp => by simp [busyWith] at hp
  observed := fun pair hm => by simp [busyWith, HostSide.quiet] at hm

theorem test_witness_BusyAlwaysEnds_smagic :
    Inv (busyWith 0x100000000000000000000000000000007#130 smagic7) ∧
      (busyWith 0x100000000000000000000000000000007#130 smagic7).phase = .busy :=
  ⟨inv_of_busyWith ⟨by decide, by decide, by decide, by decide, smagic7_busy⟩, rfl⟩

theorem test_witness_BusyAlwaysEnds_umagic :
    Inv (busyWith 0x200000000000000000000000000000007#130 umagic7) ∧
      (busyWith 0x200000000000000000000000000000007#130 umagic7).phase = .busy :=
  ⟨inv_of_busyWith ⟨by decide, by decide, by decide, umagic7_busy⟩, rfl⟩

theorem test_witness_BusyAlwaysEnds_modinv :
    Inv (busyWith 0x300000000000000000000000000000001#130 modinv1) ∧
      (busyWith 0x300000000000000000000000000000001#130 modinv1).phase = .busy :=
  ⟨inv_of_busyWith ⟨by decide, by decide, by decide, modinv1_busy⟩, rfl⟩

theorem test_witness_EveryStepKeepsTheInvariant :
    Inv (busyWith 0x100000000000000000000000000000007#130 smagic7) ∧
      (nextOf (step (busyWith 0x100000000000000000000000000000007#130 smagic7))).isSome = true :=
  ⟨test_witness_BusyAlwaysEnds_smagic.1, by decide⟩

theorem test_witness_InvariantStatesNeverStop : Inv (busyWith 0x300000000000000000000000000000001#130 modinv1) :=
  test_witness_BusyAlwaysEnds_modinv.1

theorem test_witness_IterationsNeverRaiseErrors :
    (busyWith 0#130 smagic2).host.levels.rst = false ∧ (busyWith 0#130 smagic2).phase = .busy ∧
      (nextOf (step (busyWith 0#130 smagic2))).map (·.phase) = some .resp := by decide

theorem test_witness_Mul32CompletesInAccept : State.reset.phase = .idle := by decide

/-- The ends of SMAGIC's domain: both ends of the range, and the least magnitudes; each meets the hypotheses of
SmagicAcceptLoadsTheSearch, SmagicAnswersTheClosedForm, SmagicTerminates, SignedDivisionLaw and SignedSequenceDivides. -/
theorem test_witness_SmagicDomain :
    State.reset.phase = .idle ∧ SmagicDomain (BitVec.ofInt 64 (-2 ^ 31)) ∧ SmagicDomain 4294967294#64 ∧
      SmagicDomain 2#64 ∧ SmagicDomain (BitVec.ofInt 64 (-2)) := by decide

/-- Each clause of SmagicDomainErrors at the ends of its range. -/
theorem test_witness_SmagicDomainErrors :
    ¬ DivisorRange 4294967296#64 ∧ ¬ DivisorRange (BitVec.ofInt 64 (-2 ^ 31 - 1)) ∧
      (BitVec.ofInt 64 (-1)).toInt = -1 ∧ (0#64).toInt = 0 ∧ (1#64).toInt = 1 ∧ (4294967295#64).toInt = 2 ^ 32 - 1 ∧
      DivisorRange 2147483648#64 ∧ ¬ ((2147483648#64).toInt = -1 ∨ (2147483648#64).toInt = 0 ∨
        (2147483648#64).toInt = 1 ∨ (2147483648#64).toInt = 2 ^ 32 - 1) := by decide

/-- The hypotheses of SmagicIterateDoubles. -/
abbrev SmagicIterateHypotheses (s : State) : Prop :=
  s.host.levels.rst = false ∧ s.phase = .busy ∧ s.w.op = .smagic ∧ 2 ≤ s.w.dv.toNat ∧ s.w.dv.toNat ≤ 2 ^ 31 ∧
    2 ^ 30 ≤ s.w.nc.toNat ∧ s.w.nc.toNat ≤ 2 ^ 31 ∧ 31 ≤ s.w.p.toNat ∧ s.w.p.toNat ≤ 61 ∧
    s.w.q1.toNat = 2 ^ s.w.p.toNat / s.w.nc.toNat ∧ s.w.r1.toNat = 2 ^ s.w.p.toNat % s.w.nc.toNat ∧
    s.w.q2.toNat = 2 ^ s.w.p.toNat / s.w.dv.toNat ∧ s.w.r2.toNat = 2 ^ s.w.p.toNat % s.w.dv.toNat

theorem test_witness_SmagicIterateDoubles_goes_on :
    SmagicIterateHypotheses (busyWith 0#130 smagic7) ∧ ¬ (2147483645 * (7 - 2 ^ 32 % 7) < 2 ^ 32) := by decide
theorem test_witness_SmagicIterateDoubles_ends :
    SmagicIterateHypotheses (busyWith 0#130 smagic2) ∧ 2147483647 * (2 - 2 ^ 32 % 2) < 2 ^ 32 := by decide

/-- The ends of UMAGIC's domain; each meets the hypotheses of UmagicAcceptLoadsTheSearch, UmagicAnswersTheClosedForm,
UnsignedDivisionLaw and UnsignedSequenceDivides. -/
theorem test_witness_UmagicDomain :
    State.reset.phase = .idle ∧ UmagicDomain 2#64 ∧ UmagicDomain 4294967295#64 ∧ UmagicDomain (BitVec.ofInt 64 (-1)) ∧
      UmagicDomain (BitVec.ofInt 64 (-2 ^ 31)) := by decide

/-- Each clause of UmagicDomainErrors at the ends of its range. -/
theorem test_witness_UmagicDomainErrors :
    ¬ DivisorRange 4294967296#64 ∧ (0#64).toInt = 0 ∧ (1#64).toInt = 1 ∧ DivisorRange 2#64 ∧
      ¬ ((2#64).toInt = 0 ∨ (2#64).toInt = 1) ∧ DivisorRange (BitVec.ofInt 64 (-1)) := by decide

/-- The hypotheses of UmagicIterateDoubles. -/
abbrev UmagicIterateHypotheses (s : State) : Prop :=
  s.host.levels.rst = false ∧ s.phase = .busy ∧ s.w.op = .umagic ∧ 2 ≤ s.w.dv.toNat ∧ 2 ^ 31 ≤ s.w.nc.toNat ∧
    31 ≤ s.w.p.toNat ∧ s.w.p.toNat ≤ 63 ∧
    s.w.q1.toNat = 2 ^ s.w.p.toNat / s.w.nc.toNat ∧ s.w.r1.toNat = 2 ^ s.w.p.toNat % s.w.nc.toNat ∧
    s.w.q2.toNat = (2 ^ s.w.p.toNat - 1) / s.w.dv.toNat ∧ s.w.r2.toNat = (2 ^ s.w.p.toNat - 1) % s.w.dv.toNat

theorem test_witness_UmagicIterateDoubles_goes_on : UmagicIterateHypotheses (busyWith 0#130 umagic7) := by decide
theorem test_witness_UmagicIterateDoubles_ends : UmagicIterateHypotheses (busyWith 0#130 umagic7Late) := by decide
theorem test_witness_UmagicIterateDoubles_last : UmagicIterateHypotheses (busyWith 0#130 umagicLast) := by decide

theorem test_witness_UmagicGuardNeverDecides :
    (busyWith 0#130 umagic7).host.levels.rst = false ∧ (busyWith 0#130 umagic7).phase = .busy ∧
      (busyWith 0#130 umagic7).w.op = .umagic ∧ UmagicBusy (busyWith 0#130 umagic7).w ∧
      (nextOf (step (busyWith 0#130 umagic7))).isSome = true :=
  ⟨rfl, rfl, rfl, umagic7_busy, by decide⟩

/-- UMAGIC 4294967294 at `p = 63` is a state of the loop: no `p` from 32 to 63 meets the stop condition (42_umagic
R150). -/
theorem umagicLast_busy : UmagicBusy umagicLast where
  dv_low := by decide
  bound := by decide
  p_low := by decide
  p_high := by decide
  quotient1 := by decide
  remainder1 := by decide
  quotient2 := by decide
  remainder2 := by decide
  add_indicator := by decide
  not_stopped := fun k h1 h2 =>
    (by unfold umagicStopsAt; decide : ∀ k : Fin 64, 32 ≤ k.val → ¬ umagicStopsAt umagicLast.dv.toNat k.val)
      ⟨k, Nat.lt_succ_of_le h2⟩ h1

/-- The guard's own case: the iteration from `p = 63` reaches `p = 64`, where the guard is false, and ends. -/
theorem test_witness_UmagicGuardNeverDecides_last :
    (busyWith 0#130 umagicLast).host.levels.rst = false ∧ (busyWith 0#130 umagicLast).phase = .busy ∧
      (busyWith 0#130 umagicLast).w.op = .umagic ∧ UmagicBusy (busyWith 0#130 umagicLast).w ∧
      (nextOf (step (busyWith 0#130 umagicLast))).map (fun t => (t.phase, t.w.p)) = some (.resp, 64#7) :=
  ⟨rfl, rfl, rfl, umagicLast_busy, by decide⟩

/-- The ends of MODINV's domain; each meets the hypotheses of ModinvAcceptLoadsTheSquare, ModinvAnswersTheInverse and
InverseDividesExactly. -/
theorem test_witness_ModinvDomain :
    State.reset.phase = .idle ∧ ModinvDomain 1#64 ∧ ModinvDomain 4294967295#64 ∧
      ModinvDomain (BitVec.ofInt 64 (-2 ^ 31 + 1)) := by decide

/-- Each clause of ModinvDomainErrors at the ends of its range. -/
theorem test_witness_ModinvDomainErrors :
    ¬ DivisorRange 4294967296#64 ∧ (DivisorRange 0#64 ∧ (0#64).toInt % 2 = 0) ∧
      (DivisorRange (BitVec.ofInt 64 (-2 ^ 31)) ∧ (BitVec.ofInt 64 (-2 ^ 31)).toInt % 2 = 0) ∧
      (DivisorRange 4294967295#64 ∧ (4294967295#64).toInt % 2 = 1) := by decide

theorem test_witness_ModinvIterateNewton_responds :
    (busyWith 0#130 modinv1).host.levels.rst = false ∧ (busyWith 0#130 modinv1).phase = .busy ∧
      (busyWith 0#130 modinv1).w.op = .modinv ∧ (busyWith 0#130 modinv1).w.t = 1#32 := by decide
theorem test_witness_ModinvIterateNewton_updates :
    (busyWith 0#130 modinvP4).host.levels.rst = false ∧ (busyWith 0#130 modinvP4).phase = .busy ∧
      (busyWith 0#130 modinvP4).w.op = .modinv ∧ (busyWith 0#130 modinvP4).w.t ≠ 1#32 := by decide

/-- MODINV 1 answers after one iteration, MODINV 65537 after two (43_modinv R176). -/
theorem test_witness_ModinvSelfInverseDivisors :
    State.reset.phase = .idle ∧ ModinvDomain 1#64 ∧ (∃ u, Reaches (.modinv 1#64 0#64) State.reset 1 u) ∧
      ModinvDomain 65537#64 ∧ ∃ u, Reaches (.modinv 65537#64 0#64) State.reset 2 u :=
  ⟨rfl, by decide, reaches_of_isSome (by decide), by decide, reaches_of_isSome (by decide)⟩

theorem test_witness_FoldsReadTheEffectiveDivisor :
    DivisorRange (BitVec.ofInt 64 (-2 ^ 31)) ∧ DivisorRange 4294967295#64 ∧ DivisorRange 2147483648#64 := by decide

/-- Each clause of NormalisationLaws at the ends of its range. -/
theorem test_witness_NormalisationLaws :
    2 ^ 31 ≤ (2147483648#64).toInt ∧ (4294967295#64).toInt ≤ 2 ^ 32 - 1 ∧
      -2 ^ 31 ≤ (BitVec.ofInt 64 (-2 ^ 31)).toInt ∧ (BitVec.ofInt 64 (-1)).toInt ≤ -1 ∧
      (0x100000007#64).extractLsb' 0 32 = (7#64).extractLsb' 0 32 ∧ ¬ DivisorRange 4294967299#64 := by decide

/-- Each command reaches a response; SMAGIC 1 an error at once. -/
theorem test_witness_ResponseFieldsByCommand :
    State.reset.phase = .idle ∧ (∃ u, Reaches (.mul32 3#64 5#64) State.reset 0 u) ∧
      (∃ u, Reaches (.smagic 1#64 0#64) State.reset 0 u) ∧ (∃ u, Reaches (.smagic 2#64 0#64) State.reset 1 u) ∧
      (∃ u, Reaches (.umagic 2#64 0#64) State.reset 1 u) ∧ ∃ u, Reaches (.modinv 1#64 0#64) State.reset 1 u :=
  ⟨rfl, reaches_of_isSome (by decide), reaches_of_isSome (by decide), reaches_of_isSome (by decide),
    reaches_of_isSome (by decide), reaches_of_isSome (by decide)⟩

/-- The exceptional operand, and an ordinary one. -/
theorem test_witness_DutifulCallerSeesOneError :
    (callerAccepts 4294967295 = true ∧ Instr.smagic 4294967295#64 0#64 ∈ callerCommands 4294967295 ∧
      ∃ u, Reaches (.smagic 4294967295#64 0#64) State.reset 0 u) ∧
    (callerAccepts 2 = true ∧ Instr.umagic 2#64 0#64 ∈ callerCommands 2 ∧
      ∃ u, Reaches (.umagic 2#64 0#64) State.reset 1 u) :=
  ⟨⟨by decide, by decide, reaches_of_isSome (by decide)⟩, by decide, by decide, reaches_of_isSome (by decide)⟩

theorem test_witness_MagicExpandsByParity :
    (SourceOperand.decimal (2 ^ 63 - 1)).wellFormed = true ∧ (SourceOperand.decimal (-2 ^ 63)).wellFormed = true := by
  decide

end Sys2Proof.Tests
end

/-! ## What ACCEPT and ITERATE can do to the phase and to RSP (10_state R23, R25, R29, R30) -/

namespace Sys2Proof.Machine

/-! The arms of the dispatch. -/

theorem exec_mul32 (a b : OperandWord) (s : State) :
    exec (.mul32 a b) s = acceptCommand .mul32 (respond (resultMul32 a b)) s := rfl

theorem exec_smagic (a b : OperandWord) (s : State) :
    exec (.smagic a b) s = acceptCommand .smagic (startDivisorCommand smagicDomainError loadSmagic a) s := rfl

theorem exec_umagic (a b : OperandWord) (s : State) :
    exec (.umagic a b) s = acceptCommand .umagic (startDivisorCommand umagicDomainError loadUmagic a) s := rfl

theorem exec_modinv (a b : OperandWord) (s : State) :
    exec (.modinv a b) s = acceptCommand .modinv (startDivisorCommand modinvDomainError loadModinv a) s := rfl

/-- The state after an ACCEPT that starts a loop (10_state R29): `W.op` and the loaded registers, and phase BUSY. -/
def startedLoop (op : Opcode) (load : Working → Working) (s : State) : State :=
  (s.withWorking (load { s.w with op := op })).withPhase .busy

section StartedLoop

variable (op : Opcode) (load : Working → Working) (s : State)

@[simp] theorem startedLoop_phase : (startedLoop op load s).phase = .busy := rfl
@[simp] theorem startedLoop_w : (startedLoop op load s).w = load { s.w with op := op } := rfl
@[simp] theorem startedLoop_rsp : (startedLoop op load s).rsp = s.rsp := rfl
@[simp] theorem startedLoop_host : (startedLoop op load s).host = s.host := rfl
@[simp] theorem startedLoop_freeCount : (startedLoop op load s).freeCount = s.freeCount := rfl

end StartedLoop

section Accept

variable {op : Opcode} {own : Word → Option Status} {load : Word → Working → Working} {a : OperandWord} {s : State}

theorem acceptDivisor_of_error {code : Status} (hp : s.phase = .idle) (he : divisorError own a = some code) :
    acceptCommand op (startDivisorCommand own load a) s = .next (answeredAtOnce op (errorResponse code) s) := by
  rw [acceptCommand_idle hp, startDivisorCommand, he]
  rfl

theorem acceptDivisor_of_valid (hp : s.phase = .idle) (he : divisorError own a = none) :
    acceptCommand op (startDivisorCommand own load a) s =
      .next (startedLoop op (load (effectiveDivisor a)) s) := by
  rw [acceptCommand_idle hp, startDivisorCommand, he]
  rfl

/-- ACCEPT of a divisor command in IDLE answers with a domain error, or starts the loop. -/
theorem acceptDivisor_cases (hp : s.phase = .idle) :
    (∃ r, acceptCommand op (startDivisorCommand own load a) s = .next (answeredAtOnce op r s)) ∨
      ∃ load', acceptCommand op (startDivisorCommand own load a) s = .next (startedLoop op load' s) := by
  cases he : divisorError own a with
  | some code => exact .inl ⟨_, acceptDivisor_of_error hp he⟩
  | none => exact .inr ⟨_, acceptDivisor_of_valid hp he⟩

end Accept

/-- ACCEPT of any command in IDLE answers at once, or starts a loop. -/
theorem exec_idle_cases (i : Instr) {s : State} (hp : s.phase = .idle) :
    (∃ r, exec i s = .next (answeredAtOnce i.opcode r s)) ∨
      ∃ load, exec i s = .next (startedLoop i.opcode load s) := by
  cases i with
  | mul32 a b => exact .inl ⟨resultMul32 a b, acceptCommand_idle hp⟩
  | smagic a b => exact acceptDivisor_cases hp
  | umagic a b => exact acceptDivisor_cases hp
  | modinv a b => exact acceptDivisor_cases hp

/-- ITERATE writes working registers, and either nothing else or a response. -/
theorem iterate_next_cases {s t : State} (h : iterate s = .next t) :
    (∃ w, t = s.withWorking w) ∨ ∃ w r, t = respond r (s.withWorking w) := by
  rcases iterate_cases s with ⟨_, e⟩ | ⟨_, e⟩ | ⟨_, e⟩ | ⟨_, e⟩ <;> rw [e] at h <;> cases h
  case inr.inl.refl =>
    rcases iterateSmagic_cases s with ⟨_, e⟩ | ⟨_, e⟩
    · exact .inl ⟨_, e⟩
    · exact .inr ⟨_, _, e⟩
  case inr.inr.inl.refl =>
    rcases iterateUmagic_cases s with ⟨_, e⟩ | ⟨_, e⟩
    · exact .inl ⟨_, e⟩
    · exact .inr ⟨_, _, e⟩
  case inr.inr.inr.refl =>
    rcases iterateModinv_cases s with ⟨_, e⟩ | ⟨_, e⟩
    · exact .inr ⟨s.w, _, e⟩
    · exact .inl ⟨_, e⟩

/-- Settles O7: ACCEPT leads to BUSY or RESP, ITERATE stays in BUSY or leads to RESP, TAKE and RESET lead to IDLE, and
the other steps keep the phase. -/
theorem phaseChangesOnlyAsStated : Obligations.PhaseChangesOnlyAsStated := by
  intro s t hstep hne
  rcases step_cases hstep with ⟨hr, rfl⟩ | ⟨hr, hp, cw, u, ho, hu, rfl⟩ | ⟨_, _, _, rfl⟩ | ⟨hr, hp, u, hu, rfl⟩ |
    ⟨hr, hp, hy, rfl⟩ | ⟨_, _, _, rfl⟩
  case inl => exact .inl ⟨hr, rfl⟩
  case inr.inl =>
    refine .inr ⟨hr, .inl ⟨hp, ⟨cw, ho⟩, ?_⟩⟩
    rcases exec_idle_cases (decode cw) hp with ⟨r, e⟩ | ⟨load, e⟩ <;> rw [e] at hu <;> cases hu
    · exact .inr rfl
    · exact .inl rfl
  case inr.inr.inl => exact absurd rfl hne
  case inr.inr.inr.inl =>
    rcases iterate_next_cases hu with ⟨w, rfl⟩ | ⟨w, r, rfl⟩
    · exact absurd rfl hne
    · exact .inr ⟨hr, .inr (.inl ⟨hp, rfl⟩)⟩
  case inr.inr.inr.inr.inl => exact .inr ⟨hr, .inr (.inr ⟨hp, hy, rfl⟩)⟩
  case inr.inr.inr.inr.inr => exact absurd rfl hne

/-- Settles O11: of the steps without reset, only an ACCEPT that answers at once and an ITERATE that ends its command
write RSP, and both enter RESP from another phase. -/
theorem responseRegisterWrittenOnlyByResponding : Obligations.ResponseRegisterWrittenOnlyByResponding := by
  intro s t hstep hrst hne
  rcases step_cases hstep with ⟨hr, _⟩ | ⟨_, hp, cw, u, _, hu, rfl⟩ | ⟨_, _, _, rfl⟩ | ⟨_, hp, u, hu, rfl⟩ |
    ⟨_, _, _, rfl⟩ | ⟨_, _, _, rfl⟩
  case inl => simp [hrst] at hr
  case inr.inl =>
    rcases exec_idle_cases (decode cw) hp with ⟨r, e⟩ | ⟨load, e⟩ <;> rw [e] at hu <;> cases hu
    · exact ⟨by simp [hp], rfl⟩
    · exact absurd rfl hne
  case inr.inr.inl => exact absurd rfl hne
  case inr.inr.inr.inl =>
    rcases iterate_next_cases hu with ⟨w, rfl⟩ | ⟨w, r, rfl⟩
    · exact absurd rfl hne
    · exact ⟨by simp [hp], rfl⟩
  case inr.inr.inr.inr.inl => exact absurd rfl hne
  case inr.inr.inr.inr.inr => exact absurd rfl hne

end Sys2Proof.Machine

/-! ## ITERATE and the result functions' loops, as equations

The machine and the result functions make one decision, on the search doubled; it is named here once. -/

namespace Sys2Proof.Machine

/-- SMAGIC goes on after doubling to `y` (41_smagic R115). -/
def smagicGoesOn (ad : Nat) (y : Search) : Bool := searchContinues y.q1 y.r1 (smagicDelta ad y.r2)

/-- UMAGIC goes on after doubling to `y` (42_umagic R145 (d)). -/
def umagicGoesOn (du : Nat) (y : Search) : Bool :=
  underCap y.p && searchContinues y.q1 y.r1 (umagicDelta du y.r2)

/-- The registers after one ITERATE of UMAGIC: doubled, with the add indicator brought up to date (42_umagic R145). -/
def umagicRegisters (w : Working) : Working :=
  { doubleRegisters 1 w with af := w.af || addRaised w.q2.toNat }

@[simp] theorem umagicRegisters_op (w : Working) : (umagicRegisters w).op = w.op := rfl
@[simp] theorem umagicRegisters_dv (w : Working) : (umagicRegisters w).dv = w.dv := rfl
@[simp] theorem umagicRegisters_nc (w : Working) : (umagicRegisters w).nc = w.nc := rfl
theorem umagicRegisters_af (w : Working) : (umagicRegisters w).af = (w.af || addRaised (searchOf w).q2) := rfl
@[simp] theorem searchOf_umagicRegisters (w : Working) :
    searchOf (umagicRegisters w) = searchOf (doubleRegisters 1 w) := rfl

/-- The registers with another approximation and its product (43_modinv R173). -/
def withApproximation (xn t : Word) (w : Working) : Working := { w with xn := xn, t := t }

theorem withApproximation_op (xn t : Word) (w : Working) : (withApproximation xn t w).op = w.op := rfl
theorem withApproximation_dv (xn t : Word) (w : Working) : (withApproximation xn t w).dv = w.dv := rfl
theorem withApproximation_xn (xn t : Word) (w : Working) : (withApproximation xn t w).xn = xn := rfl
theorem withApproximation_t (xn t : Word) (w : Working) : (withApproximation xn t w).t = t := rfl

/-- The registers after an ITERATE of MODINV that updates (43_modinv R173): `W.t` from the new `W.xn`. -/
def modinvRegisters (w : Working) : Working :=
  withApproximation (newtonUpdate w.xn w.t) (mul32 w.dv.toNat (newtonUpdate w.xn w.t).toNat) w

@[simp] theorem modinvRegisters_op (w : Working) : (modinvRegisters w).op = w.op := withApproximation_op _ _ _
@[simp] theorem modinvRegisters_dv (w : Working) : (modinvRegisters w).dv = w.dv := withApproximation_dv _ _ _
theorem modinvRegisters_xn (w : Working) : (modinvRegisters w).xn = newtonUpdate w.xn w.t :=
  withApproximation_xn _ _ _
theorem modinvRegisters_t (w : Working) :
    (modinvRegisters w).t = mul32 w.dv.toNat (newtonUpdate w.xn w.t).toNat := withApproximation_t _ _ _

theorem iterate_of_smagic {s : State} (op : s.w.op = .smagic) : iterate s = .next (iterateSmagic s) := by
  simp only [iterate, op]

theorem iterate_of_umagic {s : State} (op : s.w.op = .umagic) : iterate s = .next (iterateUmagic s) := by
  simp only [iterate, op]

theorem iterate_of_modinv {s : State} (op : s.w.op = .modinv) : iterate s = .next (iterateModinv s) := by
  simp only [iterate, op]

theorem iterateSmagic_eq (s : State) :
    iterateSmagic s =
      if smagicGoesOn s.w.dv.toNat (searchOf (doubleRegisters 0 s.w)) then s.withWorking (doubleRegisters 0 s.w)
      else
        respond
          (smagicResponse s.w.neg (searchOf (doubleRegisters 0 s.w)).p (searchOf (doubleRegisters 0 s.w)).q2)
          (s.withWorking (doubleRegisters 0 s.w)) := rfl

theorem iterateUmagic_eq (s : State) :
    iterateUmagic s =
      if umagicGoesOn s.w.dv.toNat (searchOf (doubleRegisters 1 s.w)) then s.withWorking (umagicRegisters s.w)
      else
        respond
          (umagicResponse (umagicRegisters s.w).af (searchOf (doubleRegisters 1 s.w)).p
            (searchOf (doubleRegisters 1 s.w)).q2)
          (s.withWorking (umagicRegisters s.w)) := rfl

theorem iterateModinv_eq (s : State) :
    iterateModinv s =
      if s.w.t = 1#32 then respond (valueResponse s.w.xn) s else s.withWorking (modinvRegisters s.w) := rfl

theorem smagicLoop_succ (neg : Bool) (ad anc fuel : Nat) (x : Search) :
    smagicLoop neg ad anc (fuel + 1) x =
      if smagicGoesOn ad (searchDouble anc ad 0 x) then smagicLoop neg ad anc fuel (searchDouble anc ad 0 x)
      else some (smagicResponse neg (searchDouble anc ad 0 x).p (searchDouble anc ad 0 x).q2) := rfl

theorem umagicLoop_succ (du nc fuel : Nat) (af : Bool) (x : Search) :
    umagicLoop du nc (fuel + 1) af x =
      if umagicGoesOn du (searchDouble nc du 1 x) then
        umagicLoop du nc fuel (af || addRaised x.q2) (searchDouble nc du 1 x)
      else
        some (umagicResponse (af || addRaised x.q2) (searchDouble nc du 1 x).p (searchDouble nc du 1 x).q2) := rfl

theorem modinvLoop_succ (du : Word) (fuel : Nat) (xn t : Word) :
    modinvLoop du (fuel + 1) xn t =
      if t = 1#32 then some (valueResponse xn)
      else modinvLoop du fuel (newtonUpdate xn t) (mul32 du.toNat (newtonUpdate xn t).toNat) := rfl

end Sys2Proof.Machine

/-! ## The response does not depend on the history (10_state R33, R34)

Two machines are compared in lockstep: in BUSY they agree on the registers their loop reads, in RESP on RSP. -/

namespace Sys2Proof.Machine

/-- Two register sets agree on everything the loop of their command reads (41_smagic R115, 42_umagic R145, 43_modinv
R173); the other registers may differ. -/
inductive SameLoop (w w' : Working) : Prop where
  | smagic (op : w.op = .smagic) (op' : w'.op = .smagic) (neg : w.neg = w'.neg) (dv : w.dv = w'.dv)
      (nc : w.nc = w'.nc) (search : searchOf w = searchOf w')
  | umagic (op : w.op = .umagic) (op' : w'.op = .umagic) (af : w.af = w'.af) (dv : w.dv = w'.dv)
      (nc : w.nc = w'.nc) (search : searchOf w = searchOf w')
  | modinv (op : w.op = .modinv) (op' : w'.op = .modinv) (dv : w.dv = w'.dv) (xn : w.xn = w'.xn) (t : w.t = w'.t)

/-- Two machines have the same command in progress, at the same place, or the same response pending. -/
inductive SameProgress (s s' : State) : Prop where
  | busy (phase : s.phase = .busy) (phase' : s'.phase = .busy) (loop : SameLoop s.w s'.w)
  | resp (phase : s.phase = .resp) (phase' : s'.phase = .resp) (rsp : s.rsp = s'.rsp)

/-- Doubling reads nothing but the search, the bound and the divisor. -/
theorem searchOf_doubleRegisters_congr {c : Nat} {w w' : Working} (dv : w.dv = w'.dv) (nc : w.nc = w'.nc)
    (search : searchOf w = searchOf w') : searchOf (doubleRegisters c w) = searchOf (doubleRegisters c w') := by
  simp only [doubleRegisters, searchOf, storeSearch] at search ⊢
  simp only [dv, nc, search]

theorem iterateSmagic_sameProgress {s s' : State} (phase : s.phase = .busy) (phase' : s'.phase = .busy)
    (op : s.w.op = .smagic) (op' : s'.w.op = .smagic) (neg : s.w.neg = s'.w.neg) (dv : s.w.dv = s'.w.dv)
    (nc : s.w.nc = s'.w.nc) (search : searchOf s.w = searchOf s'.w) :
    SameProgress (iterateSmagic s) (iterateSmagic s') := by
  have hd := searchOf_doubleRegisters_congr (c := 0) dv nc search
  rw [iterateSmagic_eq s, iterateSmagic_eq s', neg, dv, hd]
  split
  · exact .busy phase phase' (.smagic op op' neg dv nc hd)
  · exact .resp rfl rfl rfl

theorem iterateUmagic_sameProgress {s s' : State} (phase : s.phase = .busy) (phase' : s'.phase = .busy)
    (op : s.w.op = .umagic) (op' : s'.w.op = .umagic) (af : s.w.af = s'.w.af) (dv : s.w.dv = s'.w.dv)
    (nc : s.w.nc = s'.w.nc) (search : searchOf s.w = searchOf s'.w) :
    SameProgress (iterateUmagic s) (iterateUmagic s') := by
  have hd := searchOf_doubleRegisters_congr (c := 1) dv nc search
  have haf : (umagicRegisters s.w).af = (umagicRegisters s'.w).af := by
    rw [umagicRegisters_af, umagicRegisters_af, af, search]
  have hloop : SameLoop (umagicRegisters s.w) (umagicRegisters s'.w) := by
    refine .umagic op op' haf dv nc ?_
    rw [searchOf_umagicRegisters, searchOf_umagicRegisters, hd]
  rw [iterateUmagic_eq s, iterateUmagic_eq s', haf, dv, hd]
  split
  · exact .busy phase phase' hloop
  · exact .resp rfl rfl rfl

theorem iterateModinv_sameProgress {s s' : State} (phase : s.phase = .busy) (phase' : s'.phase = .busy)
    (op : s.w.op = .modinv) (op' : s'.w.op = .modinv) (dv : s.w.dv = s'.w.dv) (xn : s.w.xn = s'.w.xn)
    (t : s.w.t = s'.w.t) : SameProgress (iterateModinv s) (iterateModinv s') := by
  have hxn : (modinvRegisters s.w).xn = (modinvRegisters s'.w).xn := by
    rw [modinvRegisters_xn, modinvRegisters_xn, xn, t]
  have hloop : SameLoop (modinvRegisters s.w) (modinvRegisters s'.w) := by
    refine .modinv ?_ ?_ ?_ hxn ?_
    · rw [modinvRegisters_op, op]
    · rw [modinvRegisters_op, op']
    · rw [modinvRegisters_dv, modinvRegisters_dv, dv]
    · rw [modinvRegisters_t, modinvRegisters_t, dv, xn, t]
  rw [iterateModinv_eq s, iterateModinv_eq s', xn, t]
  split
  · exact .resp rfl rfl rfl
  · exact .busy ((withWorking_phase ..).trans phase) ((withWorking_phase ..).trans phase') hloop

/-- Lockstep: ITERATE keeps two machines at the same place of the same command. -/
theorem iterate_sameProgress {s s' t : State} (hp : s.phase = .busy) (h : SameProgress s s')
    (hi : iterate s = .next t) : ∃ t', iterate s' = .next t' ∧ SameProgress t t' := by
  cases h with
  | resp phase => simp [hp] at phase
  | busy _ phase' loop =>
    cases loop with
    | smagic op op' neg dv nc search =>
      rw [iterate_of_smagic op] at hi
      cases hi
      exact ⟨_, iterate_of_smagic op', iterateSmagic_sameProgress hp phase' op op' neg dv nc search⟩
    | umagic op op' af dv nc search =>
      rw [iterate_of_umagic op] at hi
      cases hi
      exact ⟨_, iterate_of_umagic op', iterateUmagic_sameProgress hp phase' op op' af dv nc search⟩
    | modinv op op' dv xn t =>
      rw [iterate_of_modinv op] at hi
      cases hi
      exact ⟨_, iterate_of_modinv op', iterateModinv_sameProgress hp phase' op op' dv xn t⟩

/-- Two machines in lockstep respond after the same number of iterations, with the same response. -/
theorem runEngine_sameProgress {k : Nat} {s s' u : State} (h : SameProgress s s') (hu : runEngine k s = some u) :
    ∃ u', runEngine k s' = some u' ∧ u'.rsp = u.rsp := by
  induction k generalizing s s' with
  | zero =>
    obtain ⟨hp, rfl⟩ := runEngine_zero.1 hu
    cases h with
    | busy phase => simp [hp] at phase
    | resp _ phase' rsp => exact ⟨s', runEngine_zero.2 ⟨phase', rfl⟩, rsp.symm⟩
  | succ k ih =>
    obtain ⟨hp, t, hi, ht⟩ := runEngine_succ.1 hu
    obtain ⟨t', hi', htt'⟩ := iterate_sameProgress hp h hi
    obtain ⟨u', hu', hrsp⟩ := ih htt' ht
    have hp' : s'.phase = .busy := by
      cases h with
      | busy _ phase' => exact phase'
      | resp phase => simp [hp] at phase
    exact ⟨u', runEngine_succ.2 ⟨hp', t', hi', hu'⟩, hrsp⟩

/-- ACCEPT of one divisor command brings two IDLE machines to the same place, if its loop reads loaded registers
alone. -/
theorem acceptDivisor_sameProgress {op : Opcode} {own : Word → Option Status} {load : Word → Working → Working}
    {a : OperandWord} {s s' t : State} (hp : s.phase = .idle) (hp' : s'.phase = .idle)
    (hload : ∀ D, SameLoop (load D { s.w with op := op }) (load D { s'.w with op := op }))
    (h : acceptCommand op (startDivisorCommand own load a) s = .next t) :
    ∃ t', acceptCommand op (startDivisorCommand own load a) s' = .next t' ∧ SameProgress t t' := by
  cases he : divisorError own a with
  | some code =>
    rw [acceptDivisor_of_error hp he] at h
    cases h
    exact ⟨_, acceptDivisor_of_error hp' he, .resp rfl rfl rfl⟩
  | none =>
    rw [acceptDivisor_of_valid hp he] at h
    cases h
    exact ⟨_, acceptDivisor_of_valid hp' he, .busy rfl rfl (hload _)⟩

/-- ACCEPT of one command brings any two IDLE machines to the same place. -/
theorem exec_sameProgress {i : Instr} {s s' t : State} (hp : s.phase = .idle) (hp' : s'.phase = .idle)
    (h : exec i s = .next t) : ∃ t', exec i s' = .next t' ∧ SameProgress t t' := by
  cases i with
  | mul32 a b =>
    rw [exec_mul32, acceptCommand_idle hp] at h
    cases h
    exact ⟨_, (exec_mul32 a b s').trans (acceptCommand_idle hp'), .resp rfl rfl rfl⟩
  | smagic a b => exact acceptDivisor_sameProgress hp hp' (fun _ => .smagic rfl rfl rfl rfl rfl rfl) h
  | umagic a b => exact acceptDivisor_sameProgress hp hp' (fun _ => .umagic rfl rfl rfl rfl rfl rfl) h
  | modinv a b => exact acceptDivisor_sameProgress hp hp' (fun _ => .modinv rfl rfl rfl rfl rfl) h

/-- Settles O13, by running the two machines in lockstep. -/
theorem responseDependsOnTheCommandAlone : Obligations.ResponseDependsOnTheCommandAlone := by
  rintro i s s' k u hp hp' ⟨t, ht, hu⟩
  obtain ⟨t', ht', htt'⟩ := exec_sameProgress hp hp' ht
  obtain ⟨u', hu', hrsp⟩ := runEngine_sameProgress htt' hu
  exact ⟨u', ⟨t', ht', hu'⟩, hrsp⟩

end Sys2Proof.Machine

/-! ## The search's numbers (41_smagic R113 to R120, 42_umagic R143 to R151) -/

namespace Sys2Proof.Machine

/-- The search at exponent `p` in closed form: `2^p` by `bound`, and `2^p - c` by `divisor` (41_smagic R116 with
`c = 0`, 42_umagic R147 with `c = 1`). -/
def searchAt (bound divisor c p : Nat) : Search where
  p := p
  q1 := 2 ^ p / bound
  r1 := 2 ^ p % bound
  q2 := (2 ^ p - c) / divisor
  r2 := (2 ^ p - c) % divisor

theorem searchStart_eq_searchAt (bound divisor c : Nat) :
    searchStart bound divisor (2 ^ 31 - c) = searchAt bound divisor c 31 := by
  simp only [searchStart, searchAt, Config.p0, Nat.mod_eq_sub_div_mul]

/-- Doubling takes the search at `p` to the search at `p + 1`. -/
theorem searchDouble_searchAt {bound divisor c p : Nat} (hb : 0 < bound) (hd : 0 < divisor) (hc : c ≤ 1) :
    searchDouble bound divisor c (searchAt bound divisor c p) = searchAt bound divisor c (p + 1) := by
  have first : 2 * 2 ^ p + 0 = 2 ^ (p + 1) := by ring
  have second : 2 * (2 ^ p - c) + c = 2 ^ (p + 1) - c := by
    have := Nat.one_le_two_pow (n := p)
    omega
  simp only [searchDouble, searchAt, doublePair_quotient_remainder hb (Nat.zero_le 1),
    doublePair_quotient_remainder hd hc, first, second]

/-- A search within the widths of its registers comes back from them as it was (10_state R24). -/
theorem searchOf_storeSearch {x : Search} (w : Working) (hp : x.p < 2 ^ 7) (hq1 : x.q1 < 2 ^ 64)
    (hr1 : x.r1 < 2 ^ 64) (hq2 : x.q2 < 2 ^ 64) (hr2 : x.r2 < 2 ^ 64) : searchOf (storeSearch x w) = x := by
  simp only [searchOf, storeSearch, BitVec.toNat_ofNat, Nat.mod_eq_of_lt, hp, hq1, hr1, hq2, hr2]

/-- Up to `p = 64` the search fits its registers, for a bound and a divisor of 32 bits above 1. -/
theorem searchOf_storeSearch_searchAt {bound divisor c p : Nat} (w : Working) (hp : p ≤ 64) (hb : 2 ≤ bound)
    (hb' : bound < 2 ^ 32) (hd : 2 ≤ divisor) (hd' : divisor < 2 ^ 32) :
    searchOf (storeSearch (searchAt bound divisor c p) w) = searchAt bound divisor c p := by
  have hpow : 2 ^ p ≤ 2 ^ 64 := Nat.pow_le_pow_right (by norm_num) hp
  have quotient {N n : Nat} (hN : N ≤ 2 ^ 64) (hn : 2 ≤ n) : N / n < 2 ^ 64 := by
    have := Nat.div_le_div_left (a := N) hn (by norm_num)
    omega
  have remainder {N n : Nat} (hn : 2 ≤ n) (hn' : n < 2 ^ 32) : N % n < 2 ^ 64 := by
    have := Nat.mod_lt N (show 0 < n by omega)
    omega
  refine searchOf_storeSearch w ?_ (quotient hpow hb) (remainder hb hb') (quotient ?_ hd) (remainder hd hd')
  · show p < 2 ^ 7
    omega
  · omega

/-- One doubling of registers that hold the search at `p`. -/
theorem searchOf_doubleRegisters {c : Nat} {w : Working} (hc : c ≤ 1) (hnc : 2 ≤ w.nc.toNat) (hdv : 2 ≤ w.dv.toNat)
    (hp : w.p.toNat ≤ 63) (h : searchOf w = searchAt w.nc.toNat w.dv.toNat c w.p.toNat) :
    searchOf (doubleRegisters c w) = searchAt w.nc.toNat w.dv.toNat c (w.p.toNat + 1) := by
  rw [doubleRegisters, h, searchDouble_searchAt (by omega) (by omega) hc]
  exact searchOf_storeSearch_searchAt w (by omega) hnc w.nc.isLt hdv w.dv.isLt

/-- The search goes on exactly while `N <= n * delta`, where `N` is what the first pair divides by `n`. -/
theorem searchContinues_iff {n N delta : Nat} (hn : 0 < n) :
    searchContinues (N / n) (N % n) delta = true ↔ N ≤ n * delta := by
  have hr := Nat.mod_lt N hn
  have hN := Nat.div_add_mod N n
  simp only [searchContinues, decide_eq_true_iff, Nat.cast_lt, Nat.cast_inj]
  constructor
  · rintro (hlt | ⟨heq, hzero⟩)
    · have := Nat.mul_le_mul_left n (Nat.succ_le_of_lt hlt)
      rw [Nat.mul_succ] at this
      omega
    · rw [← heq]
      omega
  · intro hle
    have hq : N / n ≤ delta := Nat.le_of_mul_le_mul_left (by omega : n * (N / n) ≤ n * delta) hn
    rcases hq.lt_or_eq with hlt | heq
    · exact .inl hlt
    · rw [heq] at hN
      exact .inr ⟨heq, by omega⟩

/-! SMAGIC: the bound and the stop condition. -/

/-- `2^30 <= anc <= 2^31` (41_smagic R113). -/
theorem smagicBound_range {neg : Bool} {ad : Nat} (hlow : 2 ≤ ad) (hhigh : ad + 1 ≤ 2 ^ 31 + neg.toNat) :
    2 ^ 30 ≤ smagicBound neg ad ∧ smagicBound neg ad ≤ 2 ^ 31 := by
  have hneg := Bool.toNat_le neg
  have hlt : (2 ^ 31 + neg.toNat) % ad < ad := Nat.mod_lt _ (by omega)
  have hle : (2 ^ 31 + neg.toNat) % ad ≤ 2 ^ 31 + neg.toNat - ad := by
    rw [Nat.mod_eq_sub_mod (by omega)]
    exact Nat.mod_le _ _
  simp only [smagicBound]
  omega

theorem smagicGoesOn_searchAt {neg : Bool} {ad p : Nat} (hlow : 2 ≤ ad) (hhigh : ad + 1 ≤ 2 ^ 31 + neg.toNat) :
    smagicGoesOn ad (searchAt (smagicBound neg ad) ad 0 p) = true ↔ ¬ smagicStopsAt neg ad p := by
  have hb := (smagicBound_range hlow hhigh).1
  have hr : 2 ^ p % ad < ad := Nat.mod_lt _ (by omega)
  have hdelta : smagicDelta ad (2 ^ p % ad) = ((ad - 2 ^ p % ad : Nat) : Int) := by
    rw [smagicDelta]
    omega
  simp only [smagicGoesOn, searchAt, Nat.sub_zero, hdelta, searchContinues_iff (show 0 < smagicBound neg ad by omega),
    smagicStopsAt, Nat.not_lt]

/-- SMAGIC's search ends at `p = 62` at the latest (41_smagic R118). -/
theorem smagicStopsAt_62 {neg : Bool} {ad : Nat} (hlow : 2 ≤ ad) (hhigh : ad + 1 ≤ 2 ^ 31 + neg.toNat) :
    smagicStopsAt neg ad 62 := by
  have hb := smagicBound_range hlow hhigh
  have hneg := Bool.toNat_le neg
  rcases (show ad < 2 ^ 31 ∨ ad = 2 ^ 31 ∧ neg.toNat = 1 by omega) with hlt | ⟨rfl, hn⟩
  · calc smagicBound neg ad * (ad - 2 ^ 62 % ad)
        ≤ 2 ^ 31 * (ad - 2 ^ 62 % ad) := Nat.mul_le_mul_right _ hb.2
      _ < 2 ^ 62 := by omega
  · simp [smagicStopsAt, smagicBound, hn]

/-! UMAGIC: the bound, the stop condition and the add indicator. -/

/-- `2^31 <= nc <= 2^32 - 1` (42_umagic R143). -/
theorem umagicBound_range {du : Nat} (hlow : 2 ≤ du) (hhigh : du < 2 ^ 32) :
    2 ^ 31 ≤ umagicBound du ∧ umagicBound du < 2 ^ 32 := by
  have hlt : (2 ^ 32 - du) % du < du := Nat.mod_lt _ (by omega)
  have hle : (2 ^ 32 - du) % du ≤ 2 ^ 32 - du := Nat.mod_le _ _
  simp only [umagicBound]
  omega

/-- UMAGIC's search ends at `p = 64` at the latest (42_umagic R149). -/
theorem umagicStopsAt_64 {du : Nat} (hlow : 2 ≤ du) (hhigh : du < 2 ^ 32) : umagicStopsAt du 64 := by
  have hb := (umagicBound_range hlow hhigh).2
  calc umagicBound du * (du - 1 - (2 ^ 64 - 1) % du)
      ≤ 2 ^ 32 * (du - 1 - (2 ^ 64 - 1) % du) := Nat.mul_le_mul_right _ hb.le
    _ < 2 ^ 64 := by omega

/-- The guard `p < 64` never decides (42_umagic R149): where it fails, the search stops anyway. -/
theorem umagicGoesOn_searchAt {du p : Nat} (hlow : 2 ≤ du) (hhigh : du < 2 ^ 32) (hp : p ≤ 64) :
    umagicGoesOn du (searchAt (umagicBound du) du 1 p) = true ↔ ¬ umagicStopsAt du p := by
  have hb := (umagicBound_range hlow hhigh).1
  have hr : (2 ^ p - 1) % du < du := Nat.mod_lt _ (by omega)
  have hdelta : umagicDelta du ((2 ^ p - 1) % du) = ((du - 1 - (2 ^ p - 1) % du : Nat) : Int) := by
    rw [umagicDelta]
    omega
  have hsearch : searchContinues (2 ^ p / umagicBound du) (2 ^ p % umagicBound du)
      (umagicDelta du ((2 ^ p - 1) % du)) = true ↔ ¬ umagicStopsAt du p := by
    rw [hdelta, searchContinues_iff (by omega), umagicStopsAt, Nat.not_lt]
  have hguard : ¬ umagicStopsAt du p → underCap p = true := by
    intro hgo
    have hne : p ≠ 64 := fun heq => hgo (heq ▸ umagicStopsAt_64 hlow hhigh)
    exact decide_eq_true (by rw [Config.pCap]; omega)
  simp only [umagicGoesOn, searchAt, Bool.and_eq_true, hsearch]
  exact ⟨And.right, fun hgo => ⟨hguard hgo, hgo⟩⟩

/-- The add indicator at `p` in closed form (42_umagic R148). -/
def umagicAddAt (du p : Nat) : Bool := decide (2 ^ 32 ≤ (2 ^ p - 1) / du)

theorem umagicAddAt_31 {du : Nat} : umagicAddAt du 31 = false := by
  have := Nat.div_le_self (2 ^ 31 - 1) du
  simp only [umagicAddAt, decide_eq_false_iff_not]
  omega

/-- One iteration keeps the add indicator: `2^32 <= q2` after the doubling exactly when `2^31 <= q2` before it. -/
theorem umagicAddAt_succ {du p : Nat} (hdu : 0 < du) :
    (umagicAddAt du p || addRaised ((2 ^ p - 1) / du)) = umagicAddAt du (p + 1) := by
  have hpow : 2 ^ (p + 1) - 1 = 2 * (2 ^ p - 1) + 1 := by
    have := Nat.one_le_two_pow (n := p)
    omega
  have hdouble : (2 ^ (p + 1) - 1) / du = 2 * ((2 ^ p - 1) / du) ∨
      (2 ^ (p + 1) - 1) / du = 2 * ((2 ^ p - 1) / du) + 1 := by
    have hpair := doublePair_quotient_remainder (N := 2 ^ p - 1) hdu (le_refl 1)
    have hfirst : (doublePair du 1 ((2 ^ p - 1) / du) ((2 ^ p - 1) % du)).1 = (2 * (2 ^ p - 1) + 1) / du := by
      rw [hpair]
    rw [hpow, ← hfirst, doublePair]
    split
    · exact .inr rfl
    · exact .inl rfl
  rw [Bool.eq_iff_iff]
  simp only [umagicAddAt, addRaised, Bool.or_eq_true, decide_eq_true_iff]
  omega

end Sys2Proof.Machine

/-! ## Loops that run up to a stop condition

What SMAGIC and UMAGIC share: a loop that counts `p` up by 1, goes on while a condition on the next `p` does not hold
and answers where it first does, as steps of the machine and as a fuelled loop of a result function. -/

namespace Sys2Proof.Machine

/-- A least number with the property exists from `low` on, once one is known. -/
theorem exists_isLeastFrom {low n : Nat} {stops : Nat → Prop} (hlow : low ≤ n) (hn : stops n) :
    ∃ p, p ≤ n ∧ IsLeastFrom low stops p := by
  classical
  have h : ∃ p, low ≤ p ∧ stops p := ⟨n, hlow, hn⟩
  obtain ⟨hl, hs⟩ := Nat.find_spec h
  exact ⟨Nat.find h, Nat.find_min' h ⟨hlow, hn⟩, hl, hs, fun k hk hlt hstop => Nat.find_min h hlt ⟨hk, hstop⟩⟩

/-- The least number is past one up to which nothing has the property. -/
theorem IsLeastFrom.lt_of_not_stopped {low m p : Nat} {stops : Nat → Prop} (h : IsLeastFrom low stops p)
    (hm : ∀ k, low ≤ k → k ≤ m → ¬ stops k) : m < p := by
  obtain ⟨hl, hs, _⟩ := h
  exact Nat.lt_of_not_le fun hle => hm p hl hle hs

section UntilStop

variable {stops : Nat → Prop} {answer : Nat → Response} {low last : Nat}

/-- The machine from `p` answers after `last - p` iterations, `last` being the first exponent to stop at. -/
theorem runEngine_until_stop {inLoop : Nat → State → Prop} (hlast : IsLeastFrom low stops last)
    (busy : ∀ {p s}, inLoop p s → s.phase = .busy)
    (goesOn : ∀ {p s}, inLoop p s → ¬ stops (p + 1) → ∃ t, iterate s = .next t ∧ inLoop (p + 1) t)
    (ends : ∀ {p s}, inLoop p s → stops (p + 1) →
      ∃ t, iterate s = .next t ∧ t.phase = .resp ∧ t.rsp = packResponse (answer (p + 1)))
    {p : Nat} {s : State} (hlow : low ≤ p + 1) (hp : p < last) (hs : inLoop p s) :
    ∃ u, runEngine (last - p) s = some u ∧ u.rsp = packResponse (answer last) := by
  obtain ⟨_, hstop, hleast⟩ := hlast
  induction hn : last - p generalizing p s with
  | zero => omega
  | succ n ih =>
    rcases Nat.lt_or_eq_of_le (Nat.succ_le_of_lt hp) with hlt | rfl
    · obtain ⟨t, hi, ht⟩ := goesOn hs (hleast (p + 1) hlow hlt)
      obtain ⟨u, hu, hrsp⟩ := ih (by omega) hlt ht (by omega)
      exact ⟨u, runEngine_succ.2 ⟨busy hs, t, hi, hu⟩, hrsp⟩
    · obtain ⟨t, hi, hphase, hrsp⟩ := ends hs hstop
      obtain rfl : n = 0 := by omega
      exact ⟨t, runEngine_succ.2 ⟨busy hs, t, hi, runEngine_zero.2 ⟨hphase, rfl⟩⟩, hrsp⟩

/-- The result function's loop from `p` gives the same answer, once its fuel allows `last - p` iterations. -/
theorem loop_until_stop {loop : Nat → Nat → Option Response} (hlast : IsLeastFrom low stops last)
    (goesOn : ∀ {fuel p}, p < last → ¬ stops (p + 1) → loop (fuel + 1) p = loop fuel (p + 1))
    (ends : ∀ {fuel p}, p < last → stops (p + 1) → loop (fuel + 1) p = some (answer (p + 1)))
    {fuel p : Nat} (hlow : low ≤ p + 1) (hp : p < last) (hfuel : last ≤ p + fuel) :
    loop fuel p = some (answer last) := by
  obtain ⟨_, hstop, hleast⟩ := hlast
  induction fuel generalizing p with
  | zero => omega
  | succ fuel ih =>
    rcases Nat.lt_or_eq_of_le (Nat.succ_le_of_lt hp) with hlt | rfl
    · rw [goesOn hp (hleast (p + 1) hlow hlt)]
      exact ih (by omega) hlt (by omega)
    · exact ends hp hstop

end UntilStop

/-! ## SMAGIC runs to the closed form (41_smagic R115 to R120) -/

theorem SmagicBusy.searchOf_eq {w : Working} (h : SmagicBusy w) :
    searchOf w = searchAt w.nc.toNat w.dv.toNat 0 w.p.toNat := by
  simp only [searchOf, searchAt, Nat.sub_zero, h.quotient1, h.remainder1, h.quotient2, h.remainder2]

/-- The registers' ranges, the search in closed form and no stop yet are what SMAGIC's invariant asks. -/
theorem SmagicBusy.of_searchOf {w : Working} {p : Nat} (dv_low : 2 ≤ w.dv.toNat)
    (dv_high : w.dv.toNat + 1 ≤ 2 ^ 31 + w.neg.toNat) (bound : w.nc.toNat = smagicBound w.neg w.dv.toNat)
    (p_low : 31 ≤ p) (search : searchOf w = searchAt w.nc.toNat w.dv.toNat 0 p)
    (not_stopped : ∀ k, 32 ≤ k → k ≤ p → ¬ smagicStopsAt w.neg w.dv.toNat k) : SmagicBusy w ∧ w.p.toNat = p := by
  obtain ⟨rfl, hq1, hr1, hq2, hr2⟩ := Search.mk.inj search
  refine ⟨?_, rfl⟩
  exact {
    dv_low, dv_high, bound, p_low, not_stopped
    p_high := Nat.le_of_not_lt fun hlt => not_stopped 62 (by omega) hlt (smagicStopsAt_62 dv_low dv_high)
    quotient1 := hq1
    remainder1 := hr1
    quotient2 := by rw [hq2, Nat.sub_zero]
    remainder2 := by rw [hr2, Nat.sub_zero] }

/-- The doubled registers hold the search at `p + 1`. -/
theorem SmagicBusy.searchOf_doubled {w : Working} (h : SmagicBusy w) :
    searchOf (doubleRegisters 0 w) = searchAt (smagicBound w.neg w.dv.toNat) w.dv.toNat 0 (w.p.toNat + 1) := by
  have hb := smagicBound_range h.dv_low h.dv_high
  have hp := h.p_high
  rw [searchOf_doubleRegisters (Nat.zero_le 1) (by rw [h.bound]; omega) h.dv_low (by omega) h.searchOf_eq, h.bound]

/-- An ITERATE of SMAGIC that does not meet the stop condition keeps the loop's invariant, at the next `p`. -/
theorem iterateSmagic_goesOn {s : State} (h : SmagicBusy s.w)
    (hgo : ¬ smagicStopsAt s.w.neg s.w.dv.toNat (s.w.p.toNat + 1)) :
    iterateSmagic s = s.withWorking (doubleRegisters 0 s.w) ∧ SmagicBusy (doubleRegisters 0 s.w) ∧
      (doubleRegisters 0 s.w).p.toNat = s.w.p.toNat + 1 := by
  constructor
  · rw [iterateSmagic_eq, h.searchOf_doubled, if_pos ((smagicGoesOn_searchAt h.dv_low h.dv_high).2 hgo)]
  · refine SmagicBusy.of_searchOf h.dv_low h.dv_high h.bound (Nat.le_succ_of_le h.p_low) ?_ ?_
    · rw [h.searchOf_doubled, ← h.bound, doubleRegisters_nc, doubleRegisters_dv]
    · intro k hlow hk
      rcases Nat.le_succ_iff.1 hk with hle | rfl
      · exact h.not_stopped k hlow hle
      · exact hgo

/-- An ITERATE of SMAGIC that meets the stop condition answers. -/
theorem iterateSmagic_ends {s : State} (h : SmagicBusy s.w)
    (hstop : smagicStopsAt s.w.neg s.w.dv.toNat (s.w.p.toNat + 1)) :
    iterateSmagic s =
      respond (smagicResponse s.w.neg (s.w.p.toNat + 1) (2 ^ (s.w.p.toNat + 1) / s.w.dv.toNat))
        (s.withWorking (doubleRegisters 0 s.w)) := by
  rw [iterateSmagic_eq, h.searchOf_doubled,
    if_neg (fun hgo => (smagicGoesOn_searchAt h.dv_low h.dv_high).1 hgo hstop)]
  rfl

/-- A machine in SMAGIC's loop for a divisor, at exponent `p`. -/
structure InSmagic (neg : Bool) (ad p : Nat) (s : State) : Prop where
  phase : s.phase = .busy
  op : s.w.op = .smagic
  neg_eq : s.w.neg = neg
  dv_eq : s.w.dv.toNat = ad
  p_eq : s.w.p.toNat = p
  inv : SmagicBusy s.w

/-- From any place in SMAGIC's loop the machine answers the closed form of 41_smagic R120 after `last - p`
iterations. -/
theorem runEngine_smagic {neg : Bool} {ad p last : Nat} {s : State} (hs : InSmagic neg ad p s)
    (hlast : IsLeastFrom 32 (smagicStopsAt neg ad) last) :
    ∃ u, runEngine (last - p) s = some u ∧ u.rsp = packResponse (smagicResponse neg last (2 ^ last / ad)) := by
  have hp : p < last := by
    obtain ⟨_, _, rfl, rfl, rfl, inv⟩ := hs
    exact hlast.lt_of_not_stopped inv.not_stopped
  have hp_low : 31 ≤ p := hs.p_eq ▸ hs.inv.p_low
  refine runEngine_until_stop (answer := fun q => smagicResponse neg q (2 ^ q / ad)) (inLoop := InSmagic neg ad) hlast
    InSmagic.phase ?_ ?_ (by omega) hp hs
  · rintro p s ⟨phase, op, rfl, rfl, rfl, inv⟩ hgo
    obtain ⟨e, inv', hp'⟩ := iterateSmagic_goesOn inv hgo
    exact ⟨_, (iterate_of_smagic op).trans (congrArg _ e), ⟨phase, op, rfl, rfl, hp', inv'⟩⟩
  · rintro p s ⟨_, op, rfl, rfl, rfl, inv⟩ hstop
    exact ⟨_, (iterate_of_smagic op).trans (congrArg _ (iterateSmagic_ends inv hstop)), rfl, rfl⟩

/-- `ExecSMAGIC`'s loop gives the closed form as well. -/
theorem smagicLoop_eq {neg : Bool} {ad p last fuel : Nat} (hlow : 2 ≤ ad) (hhigh : ad + 1 ≤ 2 ^ 31 + neg.toNat)
    (hlast : IsLeastFrom 32 (smagicStopsAt neg ad) last) (hp_low : 31 ≤ p) (hp : p < last)
    (hfuel : last ≤ p + fuel) :
    smagicLoop neg ad (smagicBound neg ad) fuel (searchAt (smagicBound neg ad) ad 0 p) =
      some (smagicResponse neg last (2 ^ last / ad)) := by
  have hb := (smagicBound_range hlow hhigh).1
  have hdouble (q : Nat) := searchDouble_searchAt (p := q) (show 0 < smagicBound neg ad by omega)
    (show 0 < ad by omega) (Nat.zero_le 1)
  refine loop_until_stop (answer := fun q => smagicResponse neg q (2 ^ q / ad))
    (loop := fun fuel q => smagicLoop neg ad (smagicBound neg ad) fuel (searchAt (smagicBound neg ad) ad 0 q)) hlast
    ?_ ?_ (by omega) hp hfuel
  · intro fuel q _ hgo
    simp only [smagicLoop_succ, hdouble, if_pos ((smagicGoesOn_searchAt hlow hhigh).2 hgo)]
  · intro fuel q _ hstop
    simp only [smagicLoop_succ, hdouble, if_neg (fun hgo => (smagicGoesOn_searchAt hlow hhigh).1 hgo hstop)]
    rfl

/-! ## UMAGIC runs to the closed form (42_umagic R145 to R151) -/

theorem UmagicBusy.searchOf_eq {w : Working} (h : UmagicBusy w) :
    searchOf w = searchAt w.nc.toNat w.dv.toNat 1 w.p.toNat := by
  simp only [searchOf, searchAt, h.quotient1, h.remainder1, h.quotient2, h.remainder2]

theorem UmagicBusy.af_eq {w : Working} (h : UmagicBusy w) : w.af = umagicAddAt w.dv.toNat w.p.toNat := by
  rw [Bool.eq_iff_iff, h.add_indicator, h.quotient2, umagicAddAt, decide_eq_true_iff]

/-- The registers' ranges, the search and the add indicator in closed form and no stop yet are what UMAGIC's invariant
asks. -/
theorem UmagicBusy.of_searchOf {w : Working} {p : Nat} (dv_low : 2 ≤ w.dv.toNat)
    (bound : w.nc.toNat = umagicBound w.dv.toNat) (p_low : 31 ≤ p)
    (search : searchOf w = searchAt w.nc.toNat w.dv.toNat 1 p) (af : w.af = umagicAddAt w.dv.toNat p)
    (not_stopped : ∀ k, 32 ≤ k → k ≤ p → ¬ umagicStopsAt w.dv.toNat k) : UmagicBusy w ∧ w.p.toNat = p := by
  obtain ⟨rfl, hq1, hr1, hq2, hr2⟩ := Search.mk.inj search
  refine ⟨?_, rfl⟩
  exact {
    dv_low, bound, p_low, not_stopped
    p_high := Nat.le_of_not_lt fun hlt => not_stopped 64 (by omega) hlt (umagicStopsAt_64 dv_low w.dv.isLt)
    quotient1 := hq1
    remainder1 := hr1
    quotient2 := hq2
    remainder2 := hr2
    add_indicator := by rw [af, hq2, umagicAddAt, decide_eq_true_iff] }

/-- The doubled registers hold the search at `p + 1`. -/
theorem UmagicBusy.searchOf_doubled {w : Working} (h : UmagicBusy w) :
    searchOf (doubleRegisters 1 w) = searchAt (umagicBound w.dv.toNat) w.dv.toNat 1 (w.p.toNat + 1) := by
  have hb := umagicBound_range h.dv_low w.dv.isLt
  rw [searchOf_doubleRegisters (le_refl 1) (by rw [h.bound]; omega) h.dv_low h.p_high h.searchOf_eq, h.bound]

/-- The add indicator after an ITERATE is the one of `p + 1` (42_umagic R148). -/
theorem UmagicBusy.af_umagicRegisters {w : Working} (h : UmagicBusy w) :
    (umagicRegisters w).af = umagicAddAt w.dv.toNat (w.p.toNat + 1) := by
  have hdv := h.dv_low
  rw [umagicRegisters_af, h.af_eq, h.searchOf_eq, searchAt, umagicAddAt_succ (by omega)]

/-- An ITERATE of UMAGIC that does not meet the stop condition keeps the loop's invariant, at the next `p`. -/
theorem iterateUmagic_goesOn {s : State} (h : UmagicBusy s.w)
    (hgo : ¬ umagicStopsAt s.w.dv.toNat (s.w.p.toNat + 1)) :
    iterateUmagic s = s.withWorking (umagicRegisters s.w) ∧ UmagicBusy (umagicRegisters s.w) ∧
      (umagicRegisters s.w).p.toNat = s.w.p.toNat + 1 := by
  have hp := h.p_high
  constructor
  · rw [iterateUmagic_eq, h.searchOf_doubled,
      if_pos ((umagicGoesOn_searchAt h.dv_low s.w.dv.isLt (by omega)).2 hgo)]
  · refine UmagicBusy.of_searchOf h.dv_low h.bound (Nat.le_succ_of_le h.p_low) ?_ h.af_umagicRegisters ?_
    · rw [searchOf_umagicRegisters, h.searchOf_doubled, ← h.bound, umagicRegisters_nc, umagicRegisters_dv]
    · intro k hlow hk
      rcases Nat.le_succ_iff.1 hk with hle | rfl
      · exact h.not_stopped k hlow hle
      · exact hgo

/-- An ITERATE of UMAGIC that meets the stop condition answers. -/
theorem iterateUmagic_ends {s : State} (h : UmagicBusy s.w)
    (hstop : umagicStopsAt s.w.dv.toNat (s.w.p.toNat + 1)) :
    iterateUmagic s =
      respond
        (umagicResponse (umagicAddAt s.w.dv.toNat (s.w.p.toNat + 1)) (s.w.p.toNat + 1)
          ((2 ^ (s.w.p.toNat + 1) - 1) / s.w.dv.toNat))
        (s.withWorking (umagicRegisters s.w)) := by
  have hp := h.p_high
  rw [iterateUmagic_eq, h.searchOf_doubled, h.af_umagicRegisters,
    if_neg (fun hgo => (umagicGoesOn_searchAt h.dv_low s.w.dv.isLt (by omega)).1 hgo hstop)]
  rfl

/-- A machine in UMAGIC's loop for a divisor, at exponent `p`. -/
structure InUmagic (du p : Nat) (s : State) : Prop where
  phase : s.phase = .busy
  op : s.w.op = .umagic
  dv_eq : s.w.dv.toNat = du
  p_eq : s.w.p.toNat = p
  inv : UmagicBusy s.w

/-- From any place in UMAGIC's loop the machine answers the closed form of 42_umagic R151 after `last - p`
iterations. -/
theorem runEngine_umagic {du p last : Nat} {s : State} (hs : InUmagic du p s)
    (hlast : IsLeastFrom 32 (umagicStopsAt du) last) :
    ∃ u, runEngine (last - p) s = some u ∧
      u.rsp = packResponse (umagicResponse (umagicAddAt du last) last ((2 ^ last - 1) / du)) := by
  have hp : p < last := by
    obtain ⟨_, _, rfl, rfl, inv⟩ := hs
    exact hlast.lt_of_not_stopped inv.not_stopped
  have hp_low : 31 ≤ p := hs.p_eq ▸ hs.inv.p_low
  refine runEngine_until_stop (answer := fun q => umagicResponse (umagicAddAt du q) q ((2 ^ q - 1) / du))
    (inLoop := InUmagic du) hlast InUmagic.phase ?_ ?_ (by omega) hp hs
  · rintro p s ⟨phase, op, rfl, rfl, inv⟩ hgo
    obtain ⟨e, inv', hp'⟩ := iterateUmagic_goesOn inv hgo
    exact ⟨_, (iterate_of_umagic op).trans (congrArg _ e), ⟨phase, op, rfl, hp', inv'⟩⟩
  · rintro p s ⟨_, op, rfl, rfl, inv⟩ hstop
    exact ⟨_, (iterate_of_umagic op).trans (congrArg _ (iterateUmagic_ends inv hstop)), rfl, rfl⟩

/-- `ExecUMAGIC`'s loop gives the closed form as well. -/
theorem umagicLoop_eq {du p last fuel : Nat} (hlow : 2 ≤ du) (hhigh : du < 2 ^ 32)
    (hlast : IsLeastFrom 32 (umagicStopsAt du) last) (hlast64 : last ≤ 64) (hp_low : 31 ≤ p) (hp : p < last)
    (hfuel : last ≤ p + fuel) :
    umagicLoop du (umagicBound du) fuel (umagicAddAt du p) (searchAt (umagicBound du) du 1 p) =
      some (umagicResponse (umagicAddAt du last) last ((2 ^ last - 1) / du)) := by
  have hb := (umagicBound_range hlow hhigh).1
  have hdouble (q : Nat) := searchDouble_searchAt (p := q) (show 0 < umagicBound du by omega)
    (show 0 < du by omega) (le_refl 1)
  have hadd (q : Nat) : (umagicAddAt du q || addRaised (searchAt (umagicBound du) du 1 q).q2) =
      umagicAddAt du (q + 1) := umagicAddAt_succ (by omega)
  refine loop_until_stop (answer := fun q => umagicResponse (umagicAddAt du q) q ((2 ^ q - 1) / du))
    (loop := fun fuel q =>
      umagicLoop du (umagicBound du) fuel (umagicAddAt du q) (searchAt (umagicBound du) du 1 q)) hlast
    ?_ ?_ (by omega) hp hfuel
  · intro fuel q hq hgo
    simp only [umagicLoop_succ, hdouble, hadd, if_pos ((umagicGoesOn_searchAt hlow hhigh (by omega)).2 hgo)]
  · intro fuel q hq hstop
    simp only [umagicLoop_succ, hdouble, hadd,
      if_neg (fun hgo => (umagicGoesOn_searchAt hlow hhigh (by omega)).1 hgo hstop)]
    rfl

end Sys2Proof.Machine

/-! ## Mul32 as a product of words, and MODINV's Newton iteration (40_mul32 R100, R102; 43_modinv R172 to R175) -/

namespace Sys2Proof.Machine

/-- An integer is its two low halves, up to a multiple of `2^32` (00_scope R8). -/
theorem exists_eq_halves (x : Int) : ∃ high : Int, x = 2 ^ 32 * high + hi16 x * 2 ^ 16 + lo16 x := by
  refine ⟨x / 2 ^ 32, ?_⟩
  simp only [hi16, lo16, lo32, Config.halfBits]
  omega

/-- The sum of the partial products is the product modulo `2^32` (40_mul32 R102): the omitted terms are multiples of
`2^32`. -/
theorem mul32Sum_modEq (x y : Int) : (mul32Sum x y : Int) ≡ x * y [ZMOD 2 ^ 32] := by
  obtain ⟨a, hx⟩ := exists_eq_halves x
  obtain ⟨b, hy⟩ := exists_eq_halves y
  refine Int.modEq_iff_dvd.2 ⟨a * y + (hi16 x * 2 ^ 16 + lo16 x) * b + hi16 x * hi16 y, ?_⟩
  simp only [mul32Sum, Config.halfBits]
  push_cast
  linear_combination y * hx + (hi16 x * 2 ^ 16 + lo16 x : Int) * hy

theorem mul32_eq_ofInt (x y : Int) : mul32 x y = BitVec.ofInt 32 (x * y) := by
  apply BitVec.eq_of_toNat_eq
  rw [mul32, ← BitVec.ofInt_natCast, BitVec.toNat_ofInt, BitVec.toNat_ofInt]
  exact congrArg Int.toNat (mul32Sum_modEq x y)

theorem mul32_toNat_toNat (u v : Word) : mul32 u.toNat v.toNat = u * v := by
  rw [mul32_eq_ofInt, BitVec.ofInt_mul]
  simp

/-- The Newton step on words (43_modinv R173). -/
theorem newtonUpdate_eq (xn t : Word) : newtonUpdate xn t = xn * (2#32 - t) := by
  rw [newtonUpdate, mul32_eq_ofInt, BitVec.ofInt_mul, Int.sub_eq_add_neg, BitVec.ofInt_add, BitVec.ofInt_neg,
    BitVec.sub_eq_add_neg]
  simp

/-- A product `t` is right to `m` bits (43_modinv R175): it is 1 modulo `2^m`. -/
def CorrectBits (m : Nat) (t : Word) : Prop := ∃ c : Word, t = 1#32 + BitVec.ofNat 32 (2 ^ m) * c

/-- Right to 32 bits is right. -/
theorem CorrectBits.eq_one {m : Nat} {t : Word} (h : CorrectBits m t) (hm : 32 ≤ m) : t = 1#32 := by
  obtain ⟨c, rfl⟩ := h
  have hzero : BitVec.ofNat 32 (2 ^ m) = 0#32 :=
    BitVec.eq_of_toNat_eq (by rw [BitVec.toNat_ofNat, Nat.mod_eq_zero_of_dvd (pow_dvd_pow 2 hm)]; rfl)
  rw [hzero, BitVec.zero_mul, BitVec.add_zero]

/-- The Newton step squares the error, so it doubles the correct bits: `1 - t' = (1 - t)^2` (43_modinv R175). -/
theorem CorrectBits.newton {m : Nat} {t : Word} (h : CorrectBits m t) : CorrectBits (2 * m) (t * (2#32 - t)) := by
  obtain ⟨c, rfl⟩ := h
  refine ⟨-(c * c), ?_⟩
  have hpow : BitVec.ofNat 32 (2 ^ (2 * m)) = BitVec.ofNat 32 (2 ^ m) * BitVec.ofNat 32 (2 ^ m) := by
    rw [← BitVec.ofNat_mul, two_mul, pow_add]
  have hone : 1#32 = (1 : Word) := rfl
  have htwo : 2#32 = (1 : Word) + 1 := rfl
  rw [hpow, hone, htwo]
  ring

theorem correctBits_three {t : Word} (h : t.toNat % 8 = 1) : CorrectBits 3 t := by
  refine ⟨BitVec.ofNat 32 (t.toNat / 8), BitVec.eq_of_toNat_eq ?_⟩
  have := t.isLt
  simp only [BitVec.toNat_add, BitVec.toNat_mul, BitVec.toNat_ofNat]
  omega

theorem ModinvBusy.t_eq {w : Working} (h : ModinvBusy w) : w.t = w.dv * w.xn := by
  apply BitVec.eq_of_toNat_eq
  rw [h.product, BitVec.toNat_mul]

/-- The product after an update, from the product before it. -/
theorem modinvRegisters_t_eq {w : Working} (h : w.t = w.dv * w.xn) :
    (modinvRegisters w).t = w.t * (2#32 - w.t) := by
  rw [modinvRegisters_t, mul32_toNat_toNat, newtonUpdate_eq, ← BitVec.mul_assoc, ← h]

/-- After an update `W.t` is the product of the divisor and the new `W.xn` again. -/
theorem modinvRegisters_product (w : Working) :
    (modinvRegisters w).t = (modinvRegisters w).dv * (modinvRegisters w).xn := by
  rw [modinvRegisters_t, mul32_toNat_toNat, modinvRegisters_dv, modinvRegisters_xn]

/-- The machine, in MODINV's loop, and `ExecMODINV`'s loop from the same place answer alike within `n` iterations. -/
def ModinvAnswersWithin (n : Nat) (s : State) : Prop :=
  ∃ k u r, 1 ≤ k ∧ k ≤ n ∧ runEngine k s = some u ∧ u.rsp = packResponse r ∧
    ∀ fuel, n ≤ fuel → modinvLoop s.w.dv fuel s.w.xn s.w.t = some r

theorem ModinvAnswersWithin.of_product_one {n : Nat} {s : State} (hphase : s.phase = .busy) (hop : s.w.op = .modinv)
    (ht : s.w.t = 1#32) : ModinvAnswersWithin (n + 1) s := by
  have hi : iterate s = .next (respond (valueResponse s.w.xn) s) := by
    rw [iterate_of_modinv hop, iterateModinv_eq, if_pos ht]
  refine ⟨1, _, valueResponse s.w.xn, le_refl 1, by omega,
    runEngine_succ.2 ⟨hphase, _, hi, runEngine_zero.2 ⟨rfl, rfl⟩⟩, rfl, fun fuel hfuel => ?_⟩
  obtain ⟨fuel, rfl⟩ := Nat.exists_eq_succ_of_ne_zero (show fuel ≠ 0 by omega)
  rw [modinvLoop_succ, if_pos ht]

theorem ModinvAnswersWithin.of_update {n : Nat} {s : State} (hphase : s.phase = .busy) (hop : s.w.op = .modinv)
    (ht : s.w.t ≠ 1#32) (h : ModinvAnswersWithin n (s.withWorking (modinvRegisters s.w))) :
    ModinvAnswersWithin (n + 1) s := by
  obtain ⟨k, u, r, hk, hkn, hu, hrsp, hloop⟩ := h
  have hi : iterate s = .next (s.withWorking (modinvRegisters s.w)) := by
    rw [iterate_of_modinv hop, iterateModinv_eq, if_neg ht]
  refine ⟨k + 1, u, r, by omega, by omega, runEngine_succ.2 ⟨hphase, _, hi, hu⟩, hrsp, fun fuel hfuel => ?_⟩
  obtain ⟨fuel, rfl⟩ := Nat.exists_eq_succ_of_ne_zero (show fuel ≠ 0 by omega)
  have hnext := hloop fuel (by omega)
  rw [withWorking_w, modinvRegisters_dv, modinvRegisters_xn, modinvRegisters_t] at hnext
  rw [modinvLoop_succ, if_neg ht, hnext]

/-- From `m` correct bits, `n` doublings that reach 32 are enough (43_modinv R175). -/
theorem modinvAnswersWithin_of_correctBits {n m : Nat} {s : State} (hphase : s.phase = .busy)
    (hop : s.w.op = .modinv) (hprod : s.w.t = s.w.dv * s.w.xn) (hbits : CorrectBits m s.w.t) (hn : 32 ≤ 2 ^ n * m) :
    ModinvAnswersWithin (n + 1) s := by
  induction n generalizing m s with
  | zero => exact .of_product_one hphase hop (hbits.eq_one (by omega))
  | succ n ih =>
    by_cases ht : s.w.t = 1#32
    · exact .of_product_one hphase hop ht
    · have hbits' : CorrectBits (2 * m) (modinvRegisters s.w).t := modinvRegisters_t_eq hprod ▸ hbits.newton
      have hn' : 32 ≤ 2 ^ n * (2 * m) := by rwa [← mul_assoc, ← pow_succ]
      exact .of_update hphase hop ht
        (ih ((withWorking_phase ..).trans hphase) ((modinvRegisters_op _).trans hop) (modinvRegisters_product _)
          hbits' hn')

/-- From every state of MODINV's loop the answer comes within 5 iterations: 3 correct bits become 6, 12, 24, 48. -/
theorem ModinvBusy.answersWithin {s : State} (hphase : s.phase = .busy) (hop : s.w.op = .modinv)
    (h : ModinvBusy s.w) : ModinvAnswersWithin 5 s :=
  modinvAnswersWithin_of_correctBits (n := 4) hphase hop h.t_eq (correctBits_three h.three_bits) (by norm_num)

/-! ## From BUSY to the answer (10_state R30) -/

/-- Settles O19: SMAGIC and UMAGIC count `p` up to their stop condition, met at 62 and 64 at the latest; MODINV doubles
its correct bits. -/
theorem busyAlwaysEnds : Obligations.BusyAlwaysEnds := by
  intro s hinv hphase
  obtain ⟨cw, _, _, hbusy⟩ := hinv.busy hphase
  cases hop : s.w.op with
  | mul32 => simp [hop] at hbusy
  | smagic =>
    rw [hop] at hbusy
    obtain ⟨_, _, _, inv⟩ := hbusy
    obtain ⟨last, hle, hlast⟩ := exists_isLeastFrom (show 32 ≤ 62 by norm_num) (smagicStopsAt_62 inv.dv_low inv.dv_high)
    obtain ⟨u, hu, _⟩ := runEngine_smagic ⟨hphase, hop, rfl, rfl, rfl, inv⟩ hlast
    have hlow := inv.p_low
    have hlt := hlast.lt_of_not_stopped inv.not_stopped
    exact ⟨_, u, hu, by omega, show _ ≤ 31 by omega⟩
  | umagic =>
    rw [hop] at hbusy
    obtain ⟨_, _, inv⟩ := hbusy
    obtain ⟨last, hle, hlast⟩ := exists_isLeastFrom (show 32 ≤ 64 by norm_num) (umagicStopsAt_64 inv.dv_low s.w.dv.isLt)
    obtain ⟨u, hu, _⟩ := runEngine_umagic ⟨hphase, hop, rfl, rfl, inv⟩ hlast
    have hlow := inv.p_low
    have hlt := hlast.lt_of_not_stopped inv.not_stopped
    exact ⟨_, u, hu, by omega, show _ ≤ 33 by omega⟩
  | modinv =>
    rw [hop] at hbusy
    obtain ⟨_, _, inv⟩ := hbusy
    obtain ⟨k, u, r, hk, hk5, hu, _⟩ := inv.answersWithin hphase hop
    exact ⟨k, u, hu, hk, hk5⟩

end Sys2Proof.Machine

/-! ## From ACCEPT to `Exec(cw)`: the machine and the result functions agree (10_state R32) -/

namespace Sys2Proof.Machine

theorem domainError_eq_none {own : Word → Option Status} {a : OperandWord} (h : divisorError own a = none) :
    own (effectiveDivisor a) = none := by
  rcases divisorError_cases own a with ⟨_, e⟩ | ⟨_, e⟩ <;> rw [e] at h
  · cases h
  · exact h

/-! What the commands' own domain conditions leave (41_smagic R111, R112; 42_umagic R141; 43_modinv R171). -/

theorem smagicDomainError_eq_none {D : Word} (h : smagicDomainError D = none) :
    2 ≤ D.toInt.natAbs ∧ D.toInt.natAbs + 1 ≤ 2 ^ 31 + (decide (D.toInt < 0)).toNat := by
  have hne : ¬ (D.toInt = -1 ∨ D.toInt = 0 ∨ D.toInt = 1) := fun hor => by simp [smagicDomainError, hor] at h
  have hlow := D.le_toInt
  have hhigh := D.toInt_lt
  refine ⟨by omega, ?_⟩
  by_cases hneg : D.toInt < 0
  · simp only [hneg, decide_true, Bool.toNat_true]
    omega
  · simp only [hneg, decide_false, Bool.toNat_false]
    omega

theorem umagicDomainError_eq_none {D : Word} (h : umagicDomainError D = none) : 2 ≤ D.toNat := by
  have hne : ¬ (D.toNat = 0 ∨ D.toNat = 1) := fun hor => by simp [umagicDomainError, hor] at h
  omega

theorem modinvDomainError_eq_none {D : Word} (h : modinvDomainError D = none) : D.toNat % 2 = 1 := by
  have hbit : D.getLsbD 0 = true := by
    cases hb : D.getLsbD 0 with
    | false =>
      rw [modinvDomainError, if_pos hb] at h
      cases h
    | true => rfl
  simpa [BitVec.getLsbD, Nat.testBit_zero] using hbit

/-! The registers ACCEPT loads are a place in the loop (41_smagic R112 to R114, 42_umagic R142 to R144, 43_modinv
R172). -/

theorem loadSmagic_inv {D : Word} (h : smagicDomainError D = none) (w : Working) :
    SmagicBusy (loadSmagic D w) ∧ (loadSmagic D w).p.toNat = 31 ∧ (loadSmagic D w).dv.toNat = D.toInt.natAbs := by
  obtain ⟨hlow, hhigh⟩ := smagicDomainError_eq_none h
  have hneg := Bool.toNat_le (decide (D.toInt < 0))
  obtain ⟨hb, hb'⟩ := smagicBound_range hlow hhigh
  have hdv : (loadSmagic D w).dv.toNat = D.toInt.natAbs := by
    rw [loadSmagic_dv, BitVec.toNat_ofNat, Nat.mod_eq_of_lt (by omega)]
  have hnc : (loadSmagic D w).nc.toNat = smagicBound (decide (D.toInt < 0)) D.toInt.natAbs := by
    rw [loadSmagic, storeSearch_nc, BitVec.toNat_ofNat, Nat.mod_eq_of_lt (by omega)]
  have hsearch : searchOf (loadSmagic D w) =
      searchAt (smagicBound (decide (D.toInt < 0)) D.toInt.natAbs) D.toInt.natAbs 0 31 := by
    rw [loadSmagic, ← Nat.sub_zero (2 ^ 31), searchStart_eq_searchAt]
    exact searchOf_storeSearch_searchAt _ (by norm_num) (by omega) (by omega) hlow (by omega)
  obtain ⟨inv, hp⟩ := SmagicBusy.of_searchOf (w := loadSmagic D w) (p := 31) (by rw [hdv]; exact hlow)
    (by rw [hdv, loadSmagic_neg]; exact hhigh) (by rw [hnc, hdv, loadSmagic_neg]) (le_refl 31)
    (by rw [hsearch, hnc, hdv]) (fun k h1 h2 => by omega)
  exact ⟨inv, hp, hdv⟩

theorem loadUmagic_inv {D : Word} (h : umagicDomainError D = none) (w : Working) :
    UmagicBusy (loadUmagic D w) ∧ (loadUmagic D w).p.toNat = 31 := by
  have hlow := umagicDomainError_eq_none h
  obtain ⟨hb, hb'⟩ := umagicBound_range hlow D.isLt
  have hnc : (loadUmagic D w).nc.toNat = umagicBound D.toNat := by
    rw [loadUmagic, storeSearch_nc, BitVec.toNat_ofNat, Nat.mod_eq_of_lt hb']
  have hsearch : searchOf (loadUmagic D w) = searchAt (umagicBound D.toNat) D.toNat 1 31 := by
    rw [loadUmagic, searchStart_eq_searchAt]
    exact searchOf_storeSearch_searchAt _ (by norm_num) (by omega) hb' hlow D.isLt
  exact UmagicBusy.of_searchOf (by rw [loadUmagic_dv]; exact hlow) (by rw [hnc, loadUmagic_dv]) (le_refl 31)
    (by rw [hsearch, hnc, loadUmagic_dv]) (by rw [loadUmagic_af, umagicAddAt_31]) (fun k h1 h2 => by omega)

theorem loadModinv_inv {D : Word} (h : modinvDomainError D = none) (w : Working) : ModinvBusy (loadModinv D w) := by
  have hodd := modinvDomainError_eq_none h
  have ht : (loadModinv D w).t.toNat = D.toNat * D.toNat % 2 ^ 32 := by
    rw [loadModinv_t, mul32_toNat_toNat, BitVec.toNat_mul]
  refine ⟨by rw [loadModinv_dv]; exact hodd, by rw [ht, loadModinv_dv, loadModinv_xn], ?_⟩
  have hsquare : D.toNat * D.toNat % 8 = 1 := by
    rcases (show D.toNat % 8 = 1 ∨ D.toNat % 8 = 3 ∨ D.toNat % 8 = 5 ∨ D.toNat % 8 = 7 by omega) with e | e | e | e <;>
      simp [Nat.mul_mod, e]
  rw [ht, Nat.mod_mod_of_dvd _ (by norm_num : 8 ∣ 2 ^ 32), hsquare]

/-! The result functions, for an operand that passes the checks (41_smagic R110, 42_umagic R140, 43_modinv R170). -/

theorem resultSmagic_of_valid {a : OperandWord} (he : divisorError smagicDomainError a = none) :
    let neg := decide ((effectiveDivisor a).toInt < 0)
    let ad := (effectiveDivisor a).toInt.natAbs
    resultSmagic a = smagicLoop neg ad (smagicBound neg ad) 64 (searchAt (smagicBound neg ad) ad 0 31) := by
  simp only [resultSmagic, he, Config.loopFuel, ← searchStart_eq_searchAt, Nat.sub_zero]

theorem resultUmagic_of_valid {a : OperandWord} (he : divisorError umagicDomainError a = none) :
    let du := (effectiveDivisor a).toNat
    resultUmagic a = umagicLoop du (umagicBound du) 64 false (searchAt (umagicBound du) du 1 31) := by
  simp only [resultUmagic, he, Config.loopFuel, ← searchStart_eq_searchAt]

theorem resultModinv_of_valid {a : OperandWord} (he : divisorError modinvDomainError a = none) :
    let du := effectiveDivisor a
    resultModinv a = modinvLoop du 64 du (mul32 du.toNat du.toNat) := by
  simp only [resultModinv, he, Config.loopFuel]

/-! Each divisor command, for an operand that passes its checks. -/

/-- SMAGIC answers the closed form after `last - 31` iterations, as `ExecSMAGIC` does (41_smagic R120). -/
theorem smagic_answers {a : OperandWord} (b : OperandWord) {s : State} (hp : s.phase = .idle)
    (he : divisorError smagicDomainError a = none) :
    let neg := decide ((effectiveDivisor a).toInt < 0)
    let ad := (effectiveDivisor a).toInt.natAbs
    ∃ last u, 31 < last ∧ last ≤ 62 ∧ IsLeastFrom 32 (smagicStopsAt neg ad) last ∧
      Reaches (.smagic a b) s (last - 31) u ∧ resultSmagic a = some (smagicResponse neg last (2 ^ last / ad)) ∧
      u.rsp = packResponse (smagicResponse neg last (2 ^ last / ad)) := by
  intro neg ad
  have hD := domainError_eq_none he
  obtain ⟨hlow, hhigh⟩ := smagicDomainError_eq_none hD
  obtain ⟨last, hle, hlast⟩ := exists_isLeastFrom (show 32 ≤ 62 by norm_num) (smagicStopsAt_62 hlow hhigh)
  have hlt : 31 < last := hlast.1
  obtain ⟨inv, hp31, hdv⟩ := loadSmagic_inv hD { s.w with op := .smagic }
  obtain ⟨u, hu, hrsp⟩ := runEngine_smagic (s := startedLoop .smagic (loadSmagic (effectiveDivisor a)) s)
    ⟨rfl, rfl, rfl, hdv, hp31, inv⟩ hlast
  refine ⟨last, u, hlt, hle, hlast, ⟨_, (exec_smagic a b s).trans (acceptDivisor_of_valid hp he), hu⟩, ?_, hrsp⟩
  rw [resultSmagic_of_valid he]
  exact smagicLoop_eq hlow hhigh hlast (le_refl 31) hlt (by omega)

/-- UMAGIC answers the closed form after `last - 31` iterations, as `ExecUMAGIC` does (42_umagic R151). -/
theorem umagic_answers {a : OperandWord} (b : OperandWord) {s : State} (hp : s.phase = .idle)
    (he : divisorError umagicDomainError a = none) :
    let du := (effectiveDivisor a).toNat
    ∃ last u, 31 < last ∧ last ≤ 64 ∧ IsLeastFrom 32 (umagicStopsAt du) last ∧
      Reaches (.umagic a b) s (last - 31) u ∧
      resultUmagic a = some (umagicResponse (umagicAddAt du last) last ((2 ^ last - 1) / du)) ∧
      u.rsp = packResponse (umagicResponse (umagicAddAt du last) last ((2 ^ last - 1) / du)) := by
  intro du
  have hD := domainError_eq_none he
  have hlow := umagicDomainError_eq_none hD
  have hhigh := (effectiveDivisor a).isLt
  obtain ⟨last, hle, hlast⟩ := exists_isLeastFrom (show 32 ≤ 64 by norm_num) (umagicStopsAt_64 hlow hhigh)
  have hlt : 31 < last := hlast.1
  obtain ⟨inv, hp31⟩ := loadUmagic_inv hD { s.w with op := .umagic }
  obtain ⟨u, hu, hrsp⟩ := runEngine_umagic (s := startedLoop .umagic (loadUmagic (effectiveDivisor a)) s)
    ⟨rfl, rfl, rfl, hp31, inv⟩ hlast
  refine ⟨last, u, hlt, hle, hlast, ⟨_, (exec_umagic a b s).trans (acceptDivisor_of_valid hp he), hu⟩, ?_, hrsp⟩
  rw [resultUmagic_of_valid he, ← umagicAddAt_31 (du := du)]
  exact umagicLoop_eq hlow hhigh hlast hle (le_refl 31) hlt (by omega)

/-- MODINV answers within 5 iterations, as `ExecMODINV` does (43_modinv R175). -/
theorem modinv_answers {a : OperandWord} (b : OperandWord) {s : State} (hp : s.phase = .idle)
    (he : divisorError modinvDomainError a = none) :
    ∃ k u r, 1 ≤ k ∧ k ≤ 5 ∧ Reaches (.modinv a b) s k u ∧ resultModinv a = some r ∧ u.rsp = packResponse r := by
  have inv := loadModinv_inv (domainError_eq_none he) { s.w with op := .modinv }
  obtain ⟨k, u, r, hk, hk5, hu, hrsp, hloop⟩ := ModinvBusy.answersWithin
    (s := startedLoop .modinv (loadModinv (effectiveDivisor a)) s) rfl rfl inv
  refine ⟨k, u, r, hk, hk5, ⟨_, (exec_modinv a b s).trans (acceptDivisor_of_valid hp he), hu⟩, ?_, hrsp⟩
  have hfuel := hloop 64 (by norm_num)
  rwa [startedLoop_w, loadModinv_dv, loadModinv_xn, loadModinv_t, ← resultModinv_of_valid he] at hfuel

/-! Every command. -/

/-- The machine reaches the response of the command's result function, within 33 iterations. -/
def AnswersResult (i : Instr) (s : State) : Prop :=
  ∃ k u r, k ≤ 33 ∧ Reaches i s k u ∧ resultOfInstr i = some r ∧ u.rsp = packResponse r

/-- An ACCEPT that answers at once has reached its response with no iteration. -/
theorem AnswersResult.of_answeredAtOnce {i : Instr} {op : Opcode} {r : Response} {s : State}
    (h : exec i s = .next (answeredAtOnce op r s)) (hr : resultOfInstr i = some r) : AnswersResult i s :=
  ⟨0, _, r, Nat.zero_le _, ⟨_, h, runEngine_zero.2 ⟨rfl, rfl⟩⟩, hr, rfl⟩

theorem smagic_answersResult (a b : OperandWord) {s : State} (hp : s.phase = .idle) :
    AnswersResult (.smagic a b) s := by
  cases he : divisorError smagicDomainError a with
  | some code => exact .of_answeredAtOnce (acceptDivisor_of_error hp he) (by simp [resultOfInstr, resultSmagic, he])
  | none =>
    obtain ⟨last, u, _, hle, _, hu, hr, hrsp⟩ := smagic_answers b hp he
    exact ⟨_, u, _, by omega, hu, hr, hrsp⟩

theorem umagic_answersResult (a b : OperandWord) {s : State} (hp : s.phase = .idle) :
    AnswersResult (.umagic a b) s := by
  cases he : divisorError umagicDomainError a with
  | some code => exact .of_answeredAtOnce (acceptDivisor_of_error hp he) (by simp [resultOfInstr, resultUmagic, he])
  | none =>
    obtain ⟨last, u, _, hle, _, hu, hr, hrsp⟩ := umagic_answers b hp he
    exact ⟨_, u, _, by omega, hu, hr, hrsp⟩

theorem modinv_answersResult (a b : OperandWord) {s : State} (hp : s.phase = .idle) :
    AnswersResult (.modinv a b) s := by
  cases he : divisorError modinvDomainError a with
  | some code => exact .of_answeredAtOnce (acceptDivisor_of_error hp he) (by simp [resultOfInstr, resultModinv, he])
  | none =>
    obtain ⟨k, u, r, _, hk5, hu, hr, hrsp⟩ := modinv_answers b hp he
    exact ⟨k, u, r, by omega, hu, hr, hrsp⟩

theorem instr_answersResult (i : Instr) {s : State} (hp : s.phase = .idle) : AnswersResult i s := by
  cases i with
  | mul32 a b => exact .of_answeredAtOnce ((exec_mul32 a b s).trans (acceptCommand_idle hp)) rfl
  | smagic a b => exact smagic_answersResult a b hp
  | umagic a b => exact umagic_answersResult a b hp
  | modinv a b => exact modinv_answersResult a b hp

/-- ACCEPT and the iterations touch neither the host's side nor the model's counter. -/
theorem Reaches.sameOutside {i : Instr} {s u : State} {k : Nat} (hp : s.phase = .idle) (h : Reaches i s k u) :
    SameOutside s u := by
  obtain ⟨t, ht, hu⟩ := h
  have hengine := runEngine_sameOutside hu
  rcases exec_idle_cases i hp with ⟨r, e⟩ | ⟨load, e⟩ <;> rw [e] at ht <;> cases ht <;> exact hengine

theorem Reaches.phase {i : Instr} {s u : State} {k : Nat} (h : Reaches i s k u) : u.phase = .resp := by
  obtain ⟨_, _, hu⟩ := h
  exact runEngine_phase hu

/-- Settles O14, from each command's agreement with its result function. -/
theorem stepsAgreeWithExec : Obligations.StepsAgreeWithExec := by
  intro cw s hp
  obtain ⟨k, u, r, hk, hreach, hr, hrsp⟩ := instr_answersResult (decode cw) hp
  exact ⟨k, u, packResponse r, hk, hreach, hreach.phase, by rw [execWord, hr]; rfl, hrsp, hreach.sameOutside hp⟩

end Sys2Proof.Machine

/-! ## The encodings (30_encoding R71 to R75)

What the fields of a word are, for the word of a command and for the word of a response, and the two words as numbers. -/

namespace Sys2Proof

/-! The opcode map (R72) and the status codes (60_exceptions R201) are bijections. -/

@[simp] theorem opcodeOfBits_opcodeBits (op : Opcode) : opcodeOfBits (opcodeBits op) = op := by
  cases op <;> decide

@[simp] theorem opcodeBits_opcodeOfBits (op : BitVec 2) : opcodeBits (opcodeOfBits op) = op := by
  revert op
  decide

@[simp] theorem statusOfBits_statusBits (st : Status) : statusOfBits (statusBits st) = st := by
  cases st <;> decide

@[simp] theorem statusBits_statusOfBits (code : BitVec 2) : statusBits (statusOfBits code) = code := by
  revert code
  decide

/-! A command is its opcode and its two operand fields. -/

@[simp] theorem instrOf_fields (i : Instr) : instrOf i.opcode i.operandA i.operandB = i := by
  cases i <;> rfl

section InstrOf

variable (op : Opcode) (a b : OperandWord)

@[simp] theorem instrOf_opcode : (instrOf op a b).opcode = op := by cases op <;> rfl
@[simp] theorem instrOf_operandA : (instrOf op a b).operandA = a := by cases op <;> rfl
@[simp] theorem instrOf_operandB : (instrOf op a b).operandB = b := by cases op <;> rfl

end InstrOf

/-! The fields of a command's word (R71). -/

section EncodeFields

variable (i : Instr)

@[simp] theorem fieldOp_encode : fieldOp (encode i) = opcodeBits i.opcode := Laws.opcodeField_of_append _ _ _

@[simp] theorem fieldB_encode : fieldB (encode i) = i.operandB := by
  rw [fieldB, encode, BitVec.extractLsb'_append_eq_of_le (le_refl 64)]
  exact BitVec.extractLsb'_append_eq_right

@[simp] theorem fieldA_encode : fieldA (encode i) = i.operandA := BitVec.extractLsb'_append_eq_right

end EncodeFields

/-- A command word is its three fields (R71). -/
theorem append_fields (cw : CommandWord) : fieldOp cw ++ fieldB cw ++ fieldA cw = cw := by
  have high : fieldOp cw ++ fieldB cw = cw.extractLsb' 64 66 :=
    BitVec.extractLsb'_append_extractLsb'_eq_extractLsb' rfl
  rw [high]
  exact BitVec.extractLsb'_append_extractLsb'

/-- Settles O1: each field of a command's word is read back. -/
theorem decodeOfEncodeIsTheCommand : Obligations.DecodeOfEncodeIsTheCommand := by
  intro i _
  rw [decode, fieldOp_encode, fieldA_encode, fieldB_encode, opcodeOfBits_opcodeBits, instrOf_fields]

/-- Settles O2: the decoded command has the word's fields, and the word is nothing but its fields. -/
theorem encodeOfDecodeIsTheWord : Obligations.EncodeOfDecodeIsTheWord := by
  intro cw
  rw [encode, decode, instrOf_opcode, instrOf_operandA, instrOf_operandB, opcodeBits_opcodeOfBits, append_fields]

/-! The words as numbers. -/

/-- Words put side by side, as a number. -/
theorem toNat_append_eq_add {m n : Nat} (x : BitVec m) (y : BitVec n) :
    (x ++ y).toNat = x.toNat * 2 ^ n + y.toNat := by
  rw [BitVec.toNat_append, ← Nat.shiftLeft_add_eq_or_of_lt y.isLt, Nat.shiftLeft_eq]

/-- A command's word as a number (R71). -/
theorem toNat_encode (i : Instr) :
    (encode i).toNat = (opcodeBits i.opcode).toNat * 2 ^ 128 + i.operandB.toNat * 2 ^ 64 + i.operandA.toNat := by
  rw [encode, toNat_append_eq_add, toNat_append_eq_add, Nat.add_mul, Nat.mul_assoc, ← Nat.pow_add]

/-- Settles O3: the number of a command's word at each of the four opcode numbers. -/
theorem commandWordLayout : Obligations.CommandWordLayout := fun _ _ =>
  ⟨toNat_encode _, toNat_encode _, toNat_encode _, toNat_encode _⟩

/-- A response's word as a number (R74). -/
theorem toNat_packResponse (r : Response) :
    (packResponse r).toNat =
      (statusBits r.status).toNat * 2 ^ 39 + r.add.toNat * 2 ^ 38 + r.shift.toNat * 2 ^ 32 + r.value.toNat := by
  simp only [packResponse, toNat_append_eq_add, BitVec.toNat_ofBool]
  ring

/-! The fields of a response's word (R74). -/

section PackFields

variable (r : Response)

theorem packResponse_status : (packResponse r).extractLsb' 39 2 = statusBits r.status := by
  rw [packResponse, BitVec.extractLsb'_append_eq_of_le (by norm_num), BitVec.extractLsb'_append_eq_of_le (by norm_num)]
  exact BitVec.extractLsb'_append_eq_left

theorem packResponse_add : (packResponse r).getLsbD 38 = r.add := by
  rw [packResponse, BitVec.getLsbD_append, if_neg (by norm_num), BitVec.getLsbD_append, if_neg (by norm_num),
    BitVec.getLsbD_append, if_pos (by norm_num), BitVec.getLsbD_ofBool]
  rfl

theorem packResponse_shift : (packResponse r).extractLsb' 32 6 = r.shift := by
  rw [packResponse, BitVec.extractLsb'_append_eq_of_le (le_refl 32)]
  exact BitVec.extractLsb'_append_eq_right

theorem packResponse_value : (packResponse r).extractLsb' 0 32 = r.value := BitVec.extractLsb'_append_eq_right

end PackFields

@[simp] theorem unpackResponse_packResponse (r : Response) : unpackResponse (packResponse r) = r := by
  rw [unpackResponse, packResponse_status, packResponse_add, packResponse_shift, packResponse_value,
    statusOfBits_statusBits]

/-- A response word is its four fields (R74). -/
theorem packResponse_unpackResponse (rw : ResponseWord) : packResponse (unpackResponse rw) = rw := by
  have add : BitVec.ofBool (rw.getLsbD 38) = rw.extractLsb' 38 1 := by
    apply BitVec.eq_of_getLsbD_eq
    intro i hi
    obtain rfl : i = 0 := by omega
    simp
  have upper : rw.extractLsb' 39 2 ++ rw.extractLsb' 38 1 = rw.extractLsb' 38 3 :=
    BitVec.extractLsb'_append_extractLsb'_eq_extractLsb' rfl
  have high : rw.extractLsb' 38 3 ++ rw.extractLsb' 32 6 = rw.extractLsb' 32 9 :=
    BitVec.extractLsb'_append_extractLsb'_eq_extractLsb' rfl
  rw [packResponse, unpackResponse, statusBits_statusOfBits, add, upper, high]
  exact BitVec.extractLsb'_append_extractLsb'

/-- Settles O5: the number by field, and the two round trips. -/
theorem responseWordLayout : Obligations.ResponseWordLayout := by
  refine ⟨fun r => ⟨?_, unpackResponse_packResponse r⟩, packResponse_unpackResponse⟩
  rw [toNat_packResponse]
  cases r.status <;> cases r.add <;> rfl

end Sys2Proof

/-! ## The low word of an operand (30_encoding R73, R76 to R78, R82) -/

namespace Sys2Proof.Machine

/-- The low word is the operand modulo `2^32`, whatever its high bits (R76). -/
theorem effectiveDivisor_eq_ofInt (a : OperandWord) : effectiveDivisor a = BitVec.ofInt 32 a.toInt := by
  apply BitVec.eq_of_toNat_eq
  have := a.isLt
  rw [effectiveDivisor, BitVec.extractLsb'_toNat, BitVec.toNat_ofInt, BitVec.toInt_eq_toNat_cond, Nat.shiftRight_zero]
  split <;> omega

/-- Settles O44: a fold moves an in-range operand by a multiple of `2^32` into the range in which the low word reads
it. -/
theorem foldsReadTheEffectiveDivisor : Obligations.FoldsReadTheEffectiveDivisor := by
  intro a ⟨hlow, hhigh⟩
  rw [effectiveDivisor_eq_ofInt, BitVec.toInt_ofInt, BitVec.toNat_ofInt, Int.bmod_def]
  simp only [signedFold, unsignedFold]
  omega

/-- `Mul32` of two operands is the product of their low words (40_mul32 R102). -/
theorem resultMul32_eq (a b : OperandWord) :
    resultMul32 a b = valueResponse (effectiveDivisor a * effectiveDivisor b) := by
  rw [resultMul32, mul32_eq_ofInt, BitVec.ofInt_mul, ← effectiveDivisor_eq_ofInt, ← effectiveDivisor_eq_ofInt]

@[simp] theorem effectiveDivisor_append (high low : Word) : effectiveDivisor (high ++ low) = low :=
  BitVec.extractLsb'_append_eq_right

/-- Settles O45: the meanings of the divisor commands do not name `b`, and MUL32's product is one of low words. -/
theorem unusedFieldsAreIgnored : Obligations.UnusedFieldsAreIgnored := by
  refine ⟨fun a b b' s => ?_, fun ah al bh bl ah' bh' s => ?_⟩
  · simp only [exec_smagic, exec_umagic, exec_modinv, and_self]
  · simp only [exec_mul32, resultMul32_eq, effectiveDivisor_append]

/-- The parity of an operand is bit 0 of its low word (R82). -/
theorem effectiveDivisor_getLsbD_zero (a : OperandWord) :
    (effectiveDivisor a).getLsbD 0 = true ↔ a.toInt % 2 = 1 := by
  rw [effectiveDivisor_eq_ofInt, ← BitVec.testBit_toNat, BitVec.toNat_ofInt, Nat.testBit_zero, decide_eq_true_iff]
  omega

/-- A decimal operand of the 64-bit range is read back from its word (R81). -/
theorem toInt_operandWord_decimal {v : Int} (h : (SourceOperand.decimal v).wellFormed = true) :
    (operandWord (.decimal v)).toInt = v := by
  obtain ⟨hlow, hhigh⟩ := of_decide_eq_true h
  exact BitVec.toInt_ofInt_eq_self (by norm_num) hlow (by omega)

/-- Settles O49: the expansion asks for the parity of the operand's word, which is that of the integer. -/
theorem magicExpandsByParity : Obligations.MagicExpandsByParity := by
  intro v h a
  have hv : a.toInt = v := toInt_operandWord_decimal h
  refine ⟨hv ▸ effectiveDivisor_getLsbD_zero a, ?_⟩
  have hwf : (SourceLine.magic (.decimal v)).wellFormed = true := h
  have hexpand : expandLine (.magic (.decimal v)) =
      [.smagic a 0#64, .umagic a 0#64] ++ (if a.toInt % 2 = 1 then [.modinv a 0#64] else []) := rfl
  rw [assembleLine, if_pos hwf, hexpand, hv]
  split <;> rfl

end Sys2Proof.Machine

/-! ## What a command can answer (30_encoding R79, R83; 70_reset R240) -/

namespace Sys2Proof.Machine

/-! A command has one answer: the engine's run ends where it first responds. -/

theorem runEngine_unique {k k' : Nat} {s u u' : State} (h : runEngine k s = some u) (h' : runEngine k' s = some u') :
    k = k' ∧ u = u' := by
  induction k generalizing k' s with
  | zero =>
    obtain ⟨hresp, rfl⟩ := runEngine_zero.1 h
    cases k' with
    | zero => exact ⟨rfl, (runEngine_zero.1 h').2⟩
    | succ k' => simp [runEngine_succ, hresp] at h'
  | succ k ih =>
    obtain ⟨hbusy, t, ht, hu⟩ := runEngine_succ.1 h
    cases k' with
    | zero => simp [runEngine_zero, hbusy] at h'
    | succ k' =>
      obtain ⟨_, t', ht', hu'⟩ := runEngine_succ.1 h'
      obtain rfl : t = t' := by simpa [ht] using ht'
      obtain ⟨rfl, rfl⟩ := ih hu hu'
      exact ⟨rfl, rfl⟩

theorem Reaches.unique {i : Instr} {k k' : Nat} {s u u' : State} (h : Reaches i s k u) (h' : Reaches i s k' u') :
    k = k' ∧ u = u' := by
  obtain ⟨t, ht, hu⟩ := h
  obtain ⟨t', ht', hu'⟩ := h'
  obtain rfl : t = t' := by simpa [ht] using ht'
  exact runEngine_unique hu hu'

/-! The fields of the responses (30_encoding R83, 60_exceptions R201, R204). -/

theorem errorResponse_wellFormed (code : Status) : (errorResponse code).wellFormed = true := by
  simp [Response.wellFormed, errorResponse]

theorem okResponse_wellFormed {add : Bool} {shift : BitVec 6} {value : Word} (h : shift.toNat ≤ 32) :
    (okResponse add shift value).wellFormed = true := by
  simp [Response.wellFormed, okResponse, h]

theorem toNat_shiftField {p : Nat} (hlow : 32 ≤ p) (hhigh : p ≤ 64) : (shiftField p).toNat = p - 32 := by
  rw [shiftField, BitVec.toNat_ofInt]
  omega

/-- A multiplier of 32 bits is not lost in the `value` field, nor is its complement for a negative divisor. -/
theorem smagicValue_ne_zero (neg : Bool) {q2 : Nat} (h : q2 + 1 < 2 ^ 32) : smagicValue neg q2 ≠ 0#32 := by
  intro hzero
  have hnat := congrArg BitVec.toNat hzero
  rw [smagicValue, BitVec.toNat_ofInt, BitVec.toNat_zero] at hnat
  split at hnat <;> omega

/-! A domain error is one of the three error codes (60_exceptions R201). -/

theorem smagicDomainError_ne_ok (D : Word) : smagicDomainError D ≠ some .ok := by
  rw [smagicDomainError]
  split <;> simp

theorem umagicDomainError_ne_ok (D : Word) : umagicDomainError D ≠ some .ok := by
  rw [umagicDomainError]
  split <;> simp

theorem modinvDomainError_ne_ok (D : Word) : modinvDomainError D ≠ some .ok := by
  rw [modinvDomainError]
  split <;> simp

theorem divisorError_ne_ok {own : Word → Option Status} (hown : ∀ D, own D ≠ some .ok) {a : OperandWord}
    {code : Status} (he : divisorError own a = some code) : code ≠ .ok := by
  rintro rfl
  rcases divisorError_cases own a with ⟨_, e⟩ | ⟨_, e⟩ <;> rw [e] at he
  · cases he
  · exact hown _ he

/-! SMAGIC's multiplier has 32 bits: `2^p <= anc * delta(p)` at the last `p` that does not stop. -/

/-- The greatest bound `anc = 2^31` is that of an odd divisor, for which `delta` stays below `ad`. -/
theorem two_mul_smagicBound_mul_delta_lt {neg : Bool} {ad : Nat} (p : Nat) (hlow : 2 ≤ ad)
    (hhigh : ad + 1 ≤ 2 ^ 31 + neg.toNat) :
    2 * (smagicBound neg ad * (ad - 2 ^ p % ad)) < (2 ^ 32 - 1) * ad := by
  have hneg := Bool.toNat_le neg
  obtain ⟨_, hb⟩ := smagicBound_range hlow hhigh
  rcases Nat.lt_or_eq_of_le hb with hlt | heq
  · have := Nat.mul_le_mul (show smagicBound neg ad ≤ 2 ^ 31 - 1 by omega) (Nat.sub_le ad (2 ^ p % ad))
    omega
  · have hdvd : ad ∣ 2 ^ 31 + 1 := by
      rw [smagicBound] at heq
      have hn : neg.toNat = 1 := by omega
      rw [hn] at heq
      exact Nat.dvd_of_mod_eq_zero (by omega)
    have hcop : Nat.Coprime ad (2 ^ p) := (Nat.Coprime.coprime_dvd_left hdvd (by norm_num)).pow_right p
    have hrem : 2 ^ p % ad ≠ 0 := fun hzero => by
      have := Nat.eq_one_of_dvd_coprimes hcop (dvd_refl ad) (Nat.dvd_of_mod_eq_zero hzero)
      omega
    rw [heq]
    omega

theorem smagic_multiplier_lt {neg : Bool} {ad last : Nat} (hlow : 2 ≤ ad) (hhigh : ad + 1 ≤ 2 ^ 31 + neg.toNat)
    (hlast : IsLeastFrom 32 (smagicStopsAt neg ad) last) : 2 ^ last / ad + 1 < 2 ^ 32 := by
  obtain ⟨hge, _, hleast⟩ := hlast
  have hlt : 2 ^ last < (2 ^ 32 - 1) * ad := by
    rcases Nat.lt_or_eq_of_le hge with hgt | rfl
    · obtain ⟨p, rfl⟩ : ∃ p, last = p + 1 := ⟨last - 1, by omega⟩
      have hgo := hleast p (by omega) (by omega)
      rw [smagicStopsAt, Nat.not_lt] at hgo
      have := two_mul_smagicBound_mul_delta_lt p hlow hhigh
      rw [pow_succ]
      omega
    · omega
  have := (Nat.div_lt_iff_lt_mul (by omega)).2 hlt
  omega

/-! MODINV's loop ends at an inverse, so at an odd word. -/

/-- What `ExecMODINV`'s loop answers, from registers that hold the product (43_modinv R173, R174). -/
theorem modinvLoop_inverse {du xn t : Word} {fuel : Nat} {r : Response} (ht : t = du * xn)
    (h : modinvLoop du fuel xn t = some r) : ∃ y, r = valueResponse y ∧ du * y = 1#32 := by
  induction fuel generalizing xn t with
  | zero => cases h
  | succ fuel ih =>
    rw [modinvLoop_succ] at h
    split at h
    next hone =>
      cases h
      exact ⟨xn, rfl, ht ▸ hone⟩
    next => exact ih (mul32_toNat_toNat _ _) h

theorem resultModinv_inverse {a : OperandWord} {r : Response} (he : divisorError modinvDomainError a = none)
    (h : resultModinv a = some r) : ∃ y, r = valueResponse y ∧ effectiveDivisor a * y = 1#32 := by
  rw [resultModinv_of_valid he] at h
  exact modinvLoop_inverse (mul32_toNat_toNat _ _) h

theorem odd_of_mul_eq_one {x y : Word} (h : x * y = 1#32) : y.toNat % 2 = 1 := by
  have hnat : x.toNat * y.toNat % 2 ^ 32 = 1 := by rw [← BitVec.toNat_mul, h]; rfl
  have hodd : Odd (x.toNat * y.toNat) := by rw [Nat.odd_iff]; omega
  exact Nat.odd_iff.1 (Nat.odd_mul.1 hodd).2

/-! Every command. -/

/-- The answers of each command, with the number of its iterations (30_encoding R79, R83; 70_reset R240). -/
inductive AnswerOf : Opcode → Nat → Response → Prop where
  | error (op : Opcode) {code : Status} (hcode : code ≠ .ok) : AnswerOf op 0 (errorResponse code)
  | mul32 (value : Word) : AnswerOf .mul32 0 (valueResponse value)
  | smagic {k : Nat} {shift : BitVec 6} {value : Word} (hshift : shift.toNat ≤ 30) (hvalue : value ≠ 0#32)
      (hk : k = shift.toNat + 1) : AnswerOf .smagic k (okResponse false shift value)
  | umagic {k : Nat} (add : Bool) {shift : BitVec 6} (value : Word) (hshift : shift.toNat ≤ 32)
      (hk : k = shift.toNat + 1) : AnswerOf .umagic k (okResponse add shift value)
  | modinv {k : Nat} {value : Word} (hvalue : value.toNat % 2 = 1) (hk : 1 ≤ k) (hk5 : k ≤ 5) :
      AnswerOf .modinv k (valueResponse value)

/-- The machine reaches an answer of the command. -/
def ReachesAnswer (i : Instr) (s : State) : Prop :=
  ∃ k u r, Reaches i s k u ∧ u.rsp = packResponse r ∧ AnswerOf i.opcode k r

theorem ReachesAnswer.of_answeredAtOnce {i : Instr} {op : Opcode} {r : Response} {s : State}
    (h : exec i s = .next (answeredAtOnce op r s)) (hr : AnswerOf i.opcode 0 r) : ReachesAnswer i s :=
  ⟨0, _, r, ⟨_, h, runEngine_zero.2 ⟨rfl, rfl⟩⟩, rfl, hr⟩

theorem smagic_reachesAnswer (a b : OperandWord) {s : State} (hp : s.phase = .idle) :
    ReachesAnswer (.smagic a b) s := by
  cases he : divisorError smagicDomainError a with
  | some code =>
    exact .of_answeredAtOnce (acceptDivisor_of_error hp he)
      (.error _ (divisorError_ne_ok smagicDomainError_ne_ok he))
  | none =>
    obtain ⟨last, u, _, hle, hlast, hu, _, hrsp⟩ := smagic_answers b hp he
    obtain ⟨hlow, hhigh⟩ := smagicDomainError_eq_none (domainError_eq_none he)
    have hshift := toNat_shiftField hlast.1 (show last ≤ 64 by omega)
    exact ⟨_, u, _, hu, hrsp,
      .smagic (by omega) (smagicValue_ne_zero _ (smagic_multiplier_lt hlow hhigh hlast)) (by omega)⟩

theorem umagic_reachesAnswer (a b : OperandWord) {s : State} (hp : s.phase = .idle) :
    ReachesAnswer (.umagic a b) s := by
  cases he : divisorError umagicDomainError a with
  | some code =>
    exact .of_answeredAtOnce (acceptDivisor_of_error hp he)
      (.error _ (divisorError_ne_ok umagicDomainError_ne_ok he))
  | none =>
    obtain ⟨last, u, _, hle, hlast, hu, _, hrsp⟩ := umagic_answers b hp he
    have hshift := toNat_shiftField hlast.1 hle
    exact ⟨_, u, _, hu, hrsp, .umagic _ _ (by omega) (by omega)⟩

theorem modinv_reachesAnswer (a b : OperandWord) {s : State} (hp : s.phase = .idle) :
    ReachesAnswer (.modinv a b) s := by
  cases he : divisorError modinvDomainError a with
  | some code =>
    exact .of_answeredAtOnce (acceptDivisor_of_error hp he)
      (.error _ (divisorError_ne_ok modinvDomainError_ne_ok he))
  | none =>
    obtain ⟨k, u, r, hk, hk5, hu, hr, hrsp⟩ := modinv_answers b hp he
    obtain ⟨y, rfl, hy⟩ := resultModinv_inverse he hr
    exact ⟨k, u, _, hu, hrsp, .modinv (odd_of_mul_eq_one hy) hk hk5⟩

theorem instr_reachesAnswer (i : Instr) {s : State} (hp : s.phase = .idle) : ReachesAnswer i s := by
  cases i with
  | mul32 a b => exact .of_answeredAtOnce ((exec_mul32 a b s).trans (acceptCommand_idle hp)) (.mul32 _)
  | smagic a b => exact smagic_reachesAnswer a b hp
  | umagic a b => exact umagic_reachesAnswer a b hp
  | modinv a b => exact modinv_reachesAnswer a b hp

theorem AnswerOf.wellFormed {op : Opcode} {k : Nat} {r : Response} (h : AnswerOf op k r) : r.wellFormed = true := by
  cases h with
  | error _ _ => exact errorResponse_wellFormed _
  | mul32 value => exact okResponse_wellFormed (by simp)
  | smagic hshift _ _ => exact okResponse_wellFormed (by omega)
  | umagic _ _ hshift _ => exact okResponse_wellFormed hshift
  | modinv _ _ _ => exact okResponse_wellFormed (by simp)

/-- Settles O47: every response the command reaches is the one answer it has. -/
theorem responseFieldsByCommand : Obligations.ResponseFieldsByCommand := by
  intro i s k u hp h
  obtain ⟨k', u', r, h', hrsp, hanswer⟩ := instr_reachesAnswer i hp
  obtain ⟨rfl, rfl⟩ := h.unique h'
  rw [hrsp, unpackResponse_packResponse]
  refine ⟨hanswer.wellFormed, ?_⟩
  generalize i.opcode = op at hanswer ⊢
  cases hanswer with
  | error _ hcode => exact ⟨fun _ => ⟨rfl, rfl, rfl, rfl⟩, fun hok => absurd hok hcode⟩
  | mul32 value => exact ⟨fun hne => absurd rfl hne, fun _ => ⟨rfl, rfl, rfl⟩⟩
  | smagic hshift hvalue hk => exact ⟨fun hne => absurd rfl hne, fun _ => ⟨rfl, hshift, hvalue, hk⟩⟩
  | umagic add value hshift hk => exact ⟨fun hne => absurd rfl hne, fun _ => ⟨hshift, hk⟩⟩
  | modinv hvalue hk hk5 => exact ⟨fun hne => absurd rfl hne, fun _ => ⟨rfl, rfl, hvalue, hk, hk5⟩⟩

end Sys2Proof.Machine

/-! ## MUL32 (40_mul32 R100 to R102) -/

namespace Sys2Proof.Machine

/-! The halves and the partial products (R100). -/

theorem lo32_eq_emod (x : Int) : (lo32 x : Int) = x % 2 ^ 32 := Int.toNat_of_nonneg (by omega)

theorem lo32_eq_halves (x : Int) : lo32 x = hi16 x * 2 ^ 16 + lo16 x := by
  simp only [hi16, lo16, lo32, Config.halfBits]
  omega

theorem lo16_lt (x : Int) : lo16 x < 2 ^ 16 := by
  simp only [lo16, Config.halfBits]
  omega

theorem hi16_lt (x : Int) : hi16 x < 2 ^ 16 := by
  simp only [hi16, lo32, Config.halfBits]
  omega

/-- A product of two halves is below `2^32`. -/
theorem partialProduct_lt {m n : Nat} (hm : m < 2 ^ 16) (hn : n < 2 ^ 16) : m * n < 2 ^ 32 :=
  calc m * n < 2 ^ 16 * 2 ^ 16 := Nat.mul_lt_mul'' hm hn
    _ = 2 ^ 32 := by norm_num

theorem mul32Sum_eq (x y : Int) :
    mul32Sum x y = lo16 x * lo16 y + (hi16 x * lo16 y) * 2 ^ 16 + (lo16 x * hi16 y) * 2 ^ 16 := rfl

/-! The product modulo `2^32` (R102). -/

theorem mul32_toNat (x y : Int) : (mul32 x y).toNat = mul32Sum x y % 2 ^ 32 := BitVec.toNat_ofNat ..

theorem mul32_toNat_eq_emod (x y : Int) : ((mul32 x y).toNat : Int) = x * y % 2 ^ 32 := by
  rw [mul32_toNat]
  exact_mod_cast mul32Sum_modEq x y

/-- `Mul32` depends on its operands modulo `2^32` alone. -/
theorem mul32_congr {x x' y y' : Int} (hx : x ≡ x' [ZMOD 2 ^ 32]) (hy : y ≡ y' [ZMOD 2 ^ 32]) :
    mul32 x y = mul32 x' y' := by
  apply BitVec.eq_of_toNat_eq
  have hmod : ((mul32 x y).toNat : Int) = (mul32 x' y').toNat := by
    rw [mul32_toNat_eq_emod, mul32_toNat_eq_emod]
    exact hx.mul hy
  exact_mod_cast hmod

theorem lo32_modEq (x : Int) : (lo32 x : Int) ≡ x [ZMOD 2 ^ 32] := by
  rw [lo32_eq_emod]
  exact Int.mod_modEq x _

theorem mul32_comm (x y : Int) : mul32 x y = mul32 y x := by rw [mul32_eq_ofInt, mul32_eq_ofInt, Int.mul_comm]

theorem mul32_one_toNat (x : Int) : (mul32 x 1).toNat = lo32 x := by
  rw [mul32_eq_ofInt, Int.mul_one, BitVec.toNat_ofInt]
  rfl

theorem mul32_toInt_toInt (u v : Word) : mul32 u.toInt v.toInt = u * v := by
  rw [mul32_eq_ofInt, BitVec.ofInt_mul, BitVec.ofInt_toInt, BitVec.ofInt_toInt]

/-- Settles O21: halves are below `2^16`, so each product of two is below `2^32`; the rest is linear in the three
partial products. -/
theorem mul32ByHalves : Obligations.Mul32ByHalves := by
  intro x y
  have hll : lo16 x * lo16 y < 2 ^ 32 := partialProduct_lt (lo16_lt x) (lo16_lt y)
  have hhl : hi16 x * lo16 y < 2 ^ 32 := partialProduct_lt (hi16_lt x) (lo16_lt y)
  have hlh : lo16 x * hi16 y < 2 ^ 32 := partialProduct_lt (lo16_lt x) (hi16_lt y)
  have hsum := mul32Sum_eq x y
  have hvalue := mul32_toNat x y
  exact ⟨lo32_eq_emod x, lo32_eq_halves x, lo16_lt x, hi16_lt x, hll, hhl, hlh, by omega, by omega, by omega, by omega,
    mul32_toNat_eq_emod x y⟩

/-- Settles O22, from the product modulo `2^32`. -/
theorem mul32IsTheProduct : Obligations.Mul32IsTheProduct :=
  ⟨fun x y => ⟨mul32_toNat_eq_emod x y, mul32_comm x y, mul32_one_toNat x,
      mul32_congr (lo32_modEq x).symm (lo32_modEq y).symm⟩,
    fun u v => ⟨mul32_toInt_toInt u v, mul32_toNat_toNat u v⟩⟩

/-! The command (R101). -/

theorem resultMul32_eq_ofInt (a b : OperandWord) :
    resultMul32 a b = valueResponse (BitVec.ofInt 32 (a.toInt * b.toInt)) := by
  rw [resultMul32, mul32_eq_ofInt]

/-- Settles O23: in IDLE, ACCEPT writes `W.op` and responds with the result function's product. -/
theorem mul32CompletesInAccept : Obligations.Mul32CompletesInAccept := by
  intro a b s hidle
  rw [exec_mul32, acceptCommand_idle hidle, resultMul32_eq_ofInt]
  rfl

end Sys2Proof.Machine

/-! ## Every step keeps the invariant (10_state R24, R30, R32, R35)

A command that was accepted is either in its loop or answered with its `Exec`; ACCEPT brings it there and ITERATE keeps
it there. -/

namespace Sys2Proof.Machine

/-! What a command word selects (30_encoding R75). -/

theorem decode_eq_instrOf (cw : CommandWord) : decode cw = instrOf (decode cw).opcode (fieldA cw) (fieldB cw) := by
  rw [decode, instrOf_opcode]

theorem execWord_of_smagic {cw : CommandWord} (h : (decode cw).opcode = .smagic) :
    execWord cw = (resultSmagic (fieldA cw)).map packResponse := by
  rw [execWord, decode_eq_instrOf, h]
  rfl

theorem execWord_of_umagic {cw : CommandWord} (h : (decode cw).opcode = .umagic) :
    execWord cw = (resultUmagic (fieldA cw)).map packResponse := by
  rw [execWord, decode_eq_instrOf, h]
  rfl

theorem execWord_of_modinv {cw : CommandWord} (h : (decode cw).opcode = .modinv) :
    execWord cw = (resultModinv (fieldA cw)).map packResponse := by
  rw [execWord, decode_eq_instrOf, h]
  rfl

/-! The registers of a command in progress, by its opcode. -/

section BusyWith

variable {cw : CommandWord} {w : Working}

theorem not_busyWith_of_mul32 (op : w.op = .mul32) : ¬ BusyWith cw w := by
  rw [BusyWith, op]
  exact fun ⟨_, h⟩ => h

theorem busyWith_iff_of_smagic (op : w.op = .smagic) :
    BusyWith cw w ↔ (decode cw).opcode = .smagic ∧ divisorError smagicDomainError (fieldA cw) = none ∧
      w.neg = decide ((effectiveDivisor (fieldA cw)).toInt < 0) ∧
      w.dv.toNat = (effectiveDivisor (fieldA cw)).toInt.natAbs ∧ SmagicBusy w := by
  rw [BusyWith, op]

theorem busyWith_iff_of_umagic (op : w.op = .umagic) :
    BusyWith cw w ↔ (decode cw).opcode = .umagic ∧ divisorError umagicDomainError (fieldA cw) = none ∧
      w.dv = effectiveDivisor (fieldA cw) ∧ UmagicBusy w := by
  rw [BusyWith, op]

theorem busyWith_iff_of_modinv (op : w.op = .modinv) :
    BusyWith cw w ↔ (decode cw).opcode = .modinv ∧ divisorError modinvDomainError (fieldA cw) = none ∧
      w.dv = effectiveDivisor (fieldA cw) ∧ ModinvBusy w := by
  rw [BusyWith, op]

end BusyWith

/-- The command of `cw` was accepted and has not been taken: its loop is in progress, or `Exec(cw)` is in RSP. -/
inductive InProgress (cw : CommandWord) (s : State) : Prop where
  | busy (phase : s.phase = .busy) (registers : BusyWith cw s.w)
  | resp (phase : s.phase = .resp) (answer : execWord cw = some s.rsp)

/-! ACCEPT brings the command into progress. -/

/-- A command answered in ACCEPT itself is answered with its `Exec`: it has no other answer. -/
theorem execWord_of_exec_resp {cw : CommandWord} {s u : State} (hp : s.phase = .idle)
    (h : exec (decode cw) s = .next u) (hu : u.phase = .resp) : execWord cw = some u.rsp := by
  obtain ⟨k, u', rw', _, hreach, _, hexec, hrsp, _⟩ := stepsAgreeWithExec cw s hp
  obtain ⟨_, rfl⟩ := hreach.unique (k' := 0) ⟨u, h, runEngine_zero.2 ⟨hu, rfl⟩⟩
  rw [hexec, hrsp]

/-- ACCEPT of a divisor command enters BUSY for a valid operand alone, with the registers loaded for it. -/
theorem acceptDivisor_busy {op : Opcode} {own : Word → Option Status} {load : Word → Working → Working}
    {a : OperandWord} {s u : State} (hp : s.phase = .idle)
    (h : acceptCommand op (startDivisorCommand own load a) s = .next u) (hu : u.phase = .busy) :
    divisorError own a = none ∧ u.w = load (effectiveDivisor a) { s.w with op := op } := by
  cases he : divisorError own a with
  | some code =>
    rw [acceptDivisor_of_error hp he] at h
    cases h
    cases hu
  | none =>
    rw [acceptDivisor_of_valid hp he] at h
    cases h
    exact ⟨rfl, rfl⟩

/-- The registers a loop starts with are those of its command. -/
theorem busyWith_of_exec_busy {cw : CommandWord} {s u : State} (hp : s.phase = .idle)
    (h : exec (decode cw) s = .next u) (hu : u.phase = .busy) : BusyWith cw u.w := by
  have hdecode := decode_eq_instrOf cw
  cases hop : (decode cw).opcode with
  | mul32 =>
    rw [hdecode, hop, instrOf, exec_mul32, acceptCommand_idle hp] at h
    cases h
    cases hu
  | smagic =>
    rw [hdecode, hop, instrOf, exec_smagic] at h
    obtain ⟨he, hw⟩ := acceptDivisor_busy hp h hu
    obtain ⟨inv, _, hdv⟩ := loadSmagic_inv (domainError_eq_none he) { s.w with op := .smagic }
    rw [hw]
    exact (busyWith_iff_of_smagic rfl).2 ⟨hop, he, rfl, hdv, inv⟩
  | umagic =>
    rw [hdecode, hop, instrOf, exec_umagic] at h
    obtain ⟨he, hw⟩ := acceptDivisor_busy hp h hu
    obtain ⟨inv, _⟩ := loadUmagic_inv (domainError_eq_none he) { s.w with op := .umagic }
    rw [hw]
    exact (busyWith_iff_of_umagic rfl).2 ⟨hop, he, rfl, inv⟩
  | modinv =>
    rw [hdecode, hop, instrOf, exec_modinv] at h
    obtain ⟨he, hw⟩ := acceptDivisor_busy hp h hu
    have inv := loadModinv_inv (domainError_eq_none he) { s.w with op := .modinv }
    rw [hw]
    exact (busyWith_iff_of_modinv rfl).2 ⟨hop, he, rfl, inv⟩

theorem exec_inProgress {cw : CommandWord} {s u : State} (hp : s.phase = .idle) (h : exec (decode cw) s = .next u) :
    InProgress cw u := by
  have hphase : u.phase = .resp ∨ u.phase = .busy := by
    rcases exec_idle_cases (decode cw) hp with ⟨r, e⟩ | ⟨load, e⟩ <;> rw [e] at h <;> cases h
    · exact .inl rfl
    · exact .inr rfl
  rcases hphase with hu | hu
  · exact .resp hu (execWord_of_exec_resp hp h hu)
  · exact .busy hu (busyWith_of_exec_busy hp h hu)

theorem exec_sameOutside {i : Instr} {s u : State} (hp : s.phase = .idle) (h : exec i s = .next u) :
    SameOutside s u := by
  rcases exec_idle_cases i hp with ⟨r, e⟩ | ⟨load, e⟩ <;> rw [e] at h <;> cases h <;> exact ⟨rfl, rfl⟩

/-! ITERATE keeps it in progress. -/

theorem IsLeastFrom.unique {low p q : Nat} {stops : Nat → Prop} (hp : IsLeastFrom low stops p)
    (hq : IsLeastFrom low stops q) : p = q := by
  obtain ⟨hlowp, hstopp, hleastp⟩ := hp
  obtain ⟨hlowq, hstopq, hleastq⟩ := hq
  rcases Nat.lt_trichotomy p q with hlt | heq | hlt
  · exact absurd hstopp (hleastq p hlowp hlt)
  · exact heq
  · exact absurd hstopq (hleastp q hlowq hlt)

/-- The first exponent to stop at, after exponents that did not. -/
theorem IsLeastFrom.succ {low p : Nat} {stops : Nat → Prop} (hlow : low ≤ p + 1)
    (hgo : ∀ k, low ≤ k → k ≤ p → ¬ stops k) (hstop : stops (p + 1)) : IsLeastFrom low stops (p + 1) :=
  ⟨hlow, hstop, fun k hk hlt => hgo k hk (Nat.le_of_lt_succ hlt)⟩

/-- The closed form at the first exponent to stop at is `Exec` of the command (41_smagic R120). -/
theorem BusyWith.execWord_smagic {cw : CommandWord} {w : Working} {last : Nat} (op : w.op = .smagic)
    (h : BusyWith cw w) (hlast : IsLeastFrom 32 (smagicStopsAt w.neg w.dv.toNat) last) :
    execWord cw = some (packResponse (smagicResponse w.neg last (2 ^ last / w.dv.toNat))) := by
  obtain ⟨hop, he, hneg, hdv, _⟩ := (busyWith_iff_of_smagic op).1 h
  obtain ⟨last', _, _, _, hlast', _, hr, _⟩ := smagic_answers 0#64 (s := State.reset) rfl he
  rw [← hneg, ← hdv] at hlast' hr
  rw [execWord_of_smagic hop, hr, hlast.unique hlast']
  rfl

/-- The closed form at the first exponent to stop at is `Exec` of the command (42_umagic R151). -/
theorem BusyWith.execWord_umagic {cw : CommandWord} {w : Working} {last : Nat} (op : w.op = .umagic)
    (h : BusyWith cw w) (hlast : IsLeastFrom 32 (umagicStopsAt w.dv.toNat) last) :
    execWord cw = some (packResponse
      (umagicResponse (umagicAddAt w.dv.toNat last) last ((2 ^ last - 1) / w.dv.toNat))) := by
  obtain ⟨hop, he, hdv, _⟩ := (busyWith_iff_of_umagic op).1 h
  obtain ⟨last', _, _, _, hlast', _, hr, _⟩ := umagic_answers 0#64 (s := State.reset) rfl he
  rw [← hdv] at hlast' hr
  rw [execWord_of_umagic hop, hr, hlast.unique hlast']
  rfl

/-- The inverse of the divisor is `Exec` of the command: there is one inverse only (43_modinv R174). -/
theorem BusyWith.execWord_modinv {cw : CommandWord} {w : Working} (op : w.op = .modinv) (h : BusyWith cw w)
    (hone : w.t = 1#32) : execWord cw = some (packResponse (valueResponse w.xn)) := by
  obtain ⟨hop, he, hdv, inv⟩ := (busyWith_iff_of_modinv op).1 h
  obtain ⟨_, _, r, _, _, _, hr, _⟩ := modinv_answers 0#64 (s := State.reset) rfl he
  obtain ⟨y, rfl, hy⟩ := resultModinv_inverse he hr
  have hxn : w.dv * w.xn = 1#32 := inv.t_eq ▸ hone
  have hunique : y = w.xn := calc
    y = w.dv * w.xn * y := by rw [hxn, BitVec.one_mul]
    _ = w.xn * (w.dv * y) := by rw [BitVec.mul_comm w.dv, BitVec.mul_assoc]
    _ = w.xn := by rw [hdv, hy, BitVec.mul_one]
  rw [execWord_of_modinv hop, hr, hunique]
  rfl

/-- Three correct bits, as the invariant says them (43_modinv R172). -/
theorem CorrectBits.toNat_mod_eight {m : Nat} {t : Word} (hm : 3 ≤ m) (h : CorrectBits m t) : t.toNat % 8 = 1 := by
  obtain ⟨c, rfl⟩ := h
  obtain ⟨n, rfl⟩ := Nat.exists_eq_add_of_le hm
  rw [pow_add, BitVec.toNat_add, BitVec.toNat_mul, BitVec.toNat_ofNat, BitVec.toNat_ofNat]
  have hmod : 2 ^ 3 * 2 ^ n % 2 ^ 32 * c.toNat % 2 ^ 32 % 8 = 0 := by
    simp [Nat.mod_mod_of_dvd, Nat.mul_mod]
  omega

/-- An update keeps the invariant of MODINV's loop. -/
theorem ModinvBusy.modinvRegisters {w : Working} (h : ModinvBusy w) : ModinvBusy (modinvRegisters w) where
  dv_odd := by rw [modinvRegisters_dv]; exact h.dv_odd
  product := by rw [modinvRegisters_product, BitVec.toNat_mul]
  three_bits := by
    rw [modinvRegisters_t_eq h.t_eq]
    exact (correctBits_three h.three_bits).newton.toNat_mod_eight (by norm_num)

theorem iterate_inProgress {cw : CommandWord} {s u : State} (hp : s.phase = .busy) (h : BusyWith cw s.w)
    (hi : iterate s = .next u) : InProgress cw u := by
  cases op : s.w.op with
  | mul32 => exact absurd h (not_busyWith_of_mul32 op)
  | smagic =>
    rw [iterate_of_smagic op] at hi
    cases hi
    obtain ⟨hop, he, hneg, hdv, inv⟩ := (busyWith_iff_of_smagic op).1 h
    by_cases hstop : smagicStopsAt s.w.neg s.w.dv.toNat (s.w.p.toNat + 1)
    · rw [iterateSmagic_ends inv hstop]
      exact .resp rfl (h.execWord_smagic op (.succ (Nat.succ_le_succ inv.p_low) inv.not_stopped hstop))
    · obtain ⟨e, inv', _⟩ := iterateSmagic_goesOn inv hstop
      rw [e]
      exact .busy hp ((busyWith_iff_of_smagic (w := doubleRegisters 0 s.w) op).2 ⟨hop, he, hneg, hdv, inv'⟩)
  | umagic =>
    rw [iterate_of_umagic op] at hi
    cases hi
    obtain ⟨hop, he, hdv, inv⟩ := (busyWith_iff_of_umagic op).1 h
    by_cases hstop : umagicStopsAt s.w.dv.toNat (s.w.p.toNat + 1)
    · rw [iterateUmagic_ends inv hstop]
      exact .resp rfl (h.execWord_umagic op (.succ (Nat.succ_le_succ inv.p_low) inv.not_stopped hstop))
    · obtain ⟨e, inv', _⟩ := iterateUmagic_goesOn inv hstop
      rw [e]
      exact .busy hp ((busyWith_iff_of_umagic (w := umagicRegisters s.w) op).2 ⟨hop, he, hdv, inv'⟩)
  | modinv =>
    rw [iterate_of_modinv op] at hi
    cases hi
    obtain ⟨hop, he, hdv, inv⟩ := (busyWith_iff_of_modinv op).1 h
    rw [iterateModinv_eq]
    split
    next hone => exact .resp rfl (h.execWord_modinv op hone)
    next =>
      have registers : BusyWith cw (modinvRegisters s.w) :=
        (busyWith_iff_of_modinv ((modinvRegisters_op _).trans op)).2
          ⟨hop, he, (modinvRegisters_dv _).trans hdv, inv.modinvRegisters⟩
      exact .busy ((withWorking_phase ..).trans hp) registers

/-! The invariant, by the phase. -/

/-- In IDLE nothing is awaited, and the observation is all there is to the invariant. -/
theorem Inv.of_idle {s : State} (hp : s.phase = .idle) (issued : s.host.issued = none)
    (observed : ∀ pair ∈ s.host.observed, execWord pair.1 = some pair.2) : Inv s where
  waiting := by simp [hp, issued]
  busy := by simp [hp]
  resp := by simp [hp]
  observed := observed

/-- Outside IDLE the command in progress is the one awaited. -/
theorem Inv.of_inProgress {cw : CommandWord} {s : State} (h : InProgress cw s) (issued : s.host.issued = some cw)
    (observed : ∀ pair ∈ s.host.observed, execWord pair.1 = some pair.2) : Inv s := by
  cases h with
  | busy hp registers =>
    exact ⟨by simp [hp, issued], fun _ => ⟨cw, issued, registers⟩, by simp [hp], observed⟩
  | resp hp answer =>
    exact ⟨by simp [hp, issued], by simp [hp], fun _ => ⟨cw, issued, answer⟩, observed⟩

/-- The host's levels do not enter into the invariant. -/
theorem Inv.endStep {s : State} (h : Inv s) : Inv (endStep s) where
  waiting := by simpa using h.waiting
  busy := by simpa using h.busy
  resp := by simpa using h.resp
  observed := by simpa using h.observed

/-- A TAKE adds to the observation the awaited word and its `Exec`. -/
theorem Inv.takeResponse {s : State} (h : Inv s) (hp : s.phase = .resp) : Inv (takeResponse s) := by
  obtain ⟨cw, issued, answer⟩ := h.resp hp
  refine .of_idle rfl (receiveResponse_issued _ _) fun pair hpair => ?_
  rw [takeResponse_host, receiveResponse, issued, List.mem_append, List.mem_singleton] at hpair
  rcases hpair with hold | rfl
  · exact h.observed pair hold
  · exact answer

/-- Settles O17: RESET and TAKE lead to IDLE with an observation that holds, ACCEPT and ITERATE leave the awaited
command in progress, and the other steps change the host's levels alone. -/
theorem everyStepKeepsTheInvariant : Obligations.EveryStepKeepsTheInvariant := by
  intro s t hinv hstep
  rcases step_cases hstep with ⟨_, rfl⟩ | ⟨_, hp, cw, u, _, hu, rfl⟩ | ⟨_, _, _, rfl⟩ | ⟨_, hp, u, hu, rfl⟩ |
    ⟨_, hp, _, rfl⟩ | ⟨_, _, _, rfl⟩
  case inl => exact (Inv.of_idle (s := resetMachine s) rfl rfl hinv.observed).endStep
  case inr.inl =>
    obtain ⟨hhost, _⟩ := exec_sameOutside hp hu
    have hprogress : InProgress cw (u.withHost (commandAccepted cw u.host)) := by
      cases exec_inProgress hp hu with
      | busy phase registers => exact .busy phase registers
      | resp phase answer => exact .resp phase answer
    exact (Inv.of_inProgress hprogress rfl (by simpa [hhost] using hinv.observed)).endStep
  case inr.inr.inl => exact hinv.endStep
  case inr.inr.inr.inl =>
    obtain ⟨cw, issued, registers⟩ := hinv.busy hp
    obtain ⟨hhost, _⟩ := iterate_sameOutside hu
    exact (Inv.of_inProgress (iterate_inProgress hp registers hu) (by rw [hhost, issued])
      (by simpa [hhost] using hinv.observed)).endStep
  case inr.inr.inr.inr.inl => exact (hinv.takeResponse hp).endStep
  case inr.inr.inr.inr.inr => exact hinv.endStep

end Sys2Proof.Machine

/-! ## SMAGIC, command by command (41_smagic R111 to R120)

The operand's domain, the bound ACCEPT loads, one iteration on registers in range, and the response in closed form. -/

namespace Sys2Proof.Machine

/-! The domain (R111). -/

section SmagicDomain

variable {a : OperandWord}

theorem divisorError_of_not_divisorRange (own : Word → Option Status) (h : ¬ DivisorRange a) :
    divisorError own a = some .errRange := by
  rcases divisorError_cases own a with ⟨_, e⟩ | ⟨hin, _⟩
  · exact e
  · exact absurd ((divisorInRange_iff a).1 hin) h

theorem divisorError_of_divisorRange (own : Word → Option Status) (h : DivisorRange a) :
    divisorError own a = own (effectiveDivisor a) := by
  rw [divisorError, if_pos ((divisorInRange_iff a).2 h)]

/-- The effective divisor, read as a signed integer, is the signed fold (30_encoding R77). -/
theorem toInt_effectiveDivisor (h : DivisorRange a) : (effectiveDivisor a).toInt = signedFold a.toInt :=
  (foldsReadTheEffectiveDivisor a h).1.symm

/-- Of the operands in range, those of SMAGIC's domain pass the check and the others are degenerate. -/
theorem divisorError_smagic (h : DivisorRange a) :
    divisorError smagicDomainError a = if SmagicDomain a then none else some .errDegenerate := by
  rw [divisorError_of_divisorRange _ h, smagicDomainError, toInt_effectiveDivisor h]
  by_cases hdom : SmagicDomain a
  · rw [if_pos hdom, if_neg]
    have := hdom.2
    omega
  · rw [if_neg hdom, if_pos]
    have : ¬ 1 < (signedFold a.toInt).natAbs := fun hlt => hdom ⟨h, hlt⟩
    omega

theorem divisorError_smagic_eq_none (h : SmagicDomain a) : divisorError smagicDomainError a = none := by
  rw [divisorError_smagic h.1, if_pos h]

/-- The operands in range that fail are -1, 0, 1 and `2^32 - 1`, the other name of -1. -/
theorem smagicDomain_iff (h : DivisorRange a) :
    SmagicDomain a ↔ ¬ (a.toInt = -1 ∨ a.toInt = 0 ∨ a.toInt = 1 ∨ a.toInt = 2 ^ 32 - 1) := by
  obtain ⟨hlow, hhigh⟩ := h
  rw [SmagicDomain, and_iff_right (show DivisorRange a from ⟨hlow, hhigh⟩), signedFold]
  omega

/-- ACCEPT of an operand of the domain starts the loop with its effective divisor. -/
theorem exec_smagic_of_smagicDomain (b : OperandWord) {s : State} (hp : s.phase = .idle) (h : SmagicDomain a) :
    exec (.smagic a b) s = .next (startedLoop .smagic (loadSmagic (effectiveDivisor a)) s) :=
  (exec_smagic a b s).trans (acceptDivisor_of_valid hp (divisorError_smagic_eq_none h))

end SmagicDomain

/-- Settles O25: the operand check has three outcomes, for operands out of range, degenerate and of the domain. -/
theorem smagicDomainErrors : Obligations.SmagicDomainErrors := by
  intro a b s hp
  refine ⟨fun hout => ?_, fun hdegenerate => ?_, fun hin hne => ?_⟩
  · exact (exec_smagic a b s).trans (acceptDivisor_of_error hp (divisorError_of_not_divisorRange _ hout))
  · have hin : DivisorRange a := by omega
    have hdom : ¬ SmagicDomain a := fun hdom => (smagicDomain_iff hin).1 hdom hdegenerate
    have he : divisorError smagicDomainError a = some .errDegenerate := by rw [divisorError_smagic hin, if_neg hdom]
    exact (exec_smagic a b s).trans (acceptDivisor_of_error hp he)
  · exact ⟨_, exec_smagic_of_smagicDomain b hp ((smagicDomain_iff hin).2 hne), rfl⟩

/-! The bound `anc` (R113). -/

/-- With the limit `t` of R113 written by the sign of the divisor. -/
theorem smagicBound_decide (d : Int) (ad : Nat) :
    smagicBound (decide (d < 0)) ad =
      (if d < 0 then 2 ^ 31 + 1 else 2 ^ 31) - 1 - (if d < 0 then 2 ^ 31 + 1 else 2 ^ 31) % ad := by
  by_cases hneg : d < 0 <;> simp [smagicBound, hneg]

section SmagicBound

variable {neg : Bool} {ad : Nat}

/-- The bound is one below the last multiple of `ad` up to `t`. -/
theorem smagicBound_succ (hlow : 2 ≤ ad) (hhigh : ad + 1 ≤ 2 ^ 31 + neg.toNat) :
    smagicBound neg ad + 1 = ad * ((2 ^ 31 + neg.toNat) / ad) := by
  have hdiv := Nat.div_add_mod (2 ^ 31 + neg.toNat) ad
  have hpos := (smagicBound_range hlow hhigh).1
  simp only [smagicBound] at hpos ⊢
  omega

theorem smagicBound_mod (hlow : 2 ≤ ad) (hhigh : ad + 1 ≤ 2 ^ 31 + neg.toNat) :
    smagicBound neg ad % ad = ad - 1 := by
  have hsucc := smagicBound_succ hlow hhigh
  have hzero : (smagicBound neg ad % ad + 1) % ad = 0 := by rw [Nat.mod_add_mod, hsucc, Nat.mul_mod_right]
  rcases Nat.lt_or_eq_of_le (Nat.mod_lt (smagicBound neg ad) (show 0 < ad by omega)) with hlt | heq
  · rw [Nat.mod_eq_of_lt hlt] at hzero
    omega
  · omega

theorem le_smagicBound {m : Nat} (hlow : 2 ≤ ad) (hhigh : ad + 1 ≤ 2 ^ 31 + neg.toNat)
    (hm : m + 1 ≤ 2 ^ 31 + neg.toNat) (hmod : m % ad = ad - 1) : m ≤ smagicBound neg ad := by
  have hm' : m + 1 = ad * (m / ad + 1) := by
    have := Nat.div_add_mod m ad
    rw [Nat.mul_succ]
    omega
  have hq : m / ad + 1 ≤ (2 ^ 31 + neg.toNat) / ad := by
    rw [Nat.le_div_iff_mul_le (by omega), Nat.mul_comm, ← hm']
    exact hm
  have := Nat.mul_le_mul_left ad hq
  rw [← smagicBound_succ hlow hhigh] at this
  omega

/-- The bound is `2^30` for the divisors of magnitude `2^30 + 1` alone, so the first quotient is 1 but for them
(R114). -/
theorem eq_of_smagicBound_eq (hlow : 2 ≤ ad) (hhigh : ad + 1 ≤ 2 ^ 31 + neg.toNat)
    (h : smagicBound neg ad = 2 ^ 30) : ad = 2 ^ 30 + 1 := by
  have hlarge : 2 ^ 30 ≤ ad := by
    by_contra hsmall
    have := le_smagicBound (m := smagicBound neg ad + ad) hlow hhigh (by omega)
      (by rw [Nat.add_mod_right, smagicBound_mod hlow hhigh])
    omega
  obtain ⟨q, hq⟩ : ad ∣ 2 ^ 30 + 1 := ⟨_, h ▸ smagicBound_succ hlow hhigh⟩
  rcases (show q = 0 ∨ q = 1 ∨ 2 ≤ q by omega) with rfl | rfl | hq2
  · omega
  · omega
  · have := Nat.mul_le_mul hlarge hq2
    omega

theorem two_pow_31_div_smagicBound (hlow : 2 ≤ ad) (hhigh : ad + 1 ≤ 2 ^ 31 + neg.toNat) :
    2 ^ 31 / smagicBound neg ad = 1 ∨
      (2 ^ 31 / smagicBound neg ad = 2 ∧ smagicBound neg ad = 2 ^ 30 ∧ ad = 2 ^ 30 + 1) := by
  obtain ⟨hge, hle⟩ := smagicBound_range hlow hhigh
  rcases hge.eq_or_lt with heq | hlt
  · exact .inr ⟨by rw [← heq]; norm_num, heq.symm, eq_of_smagicBound_eq hlow hhigh heq.symm⟩
  · exact .inl (Nat.div_eq_of_lt_le (by omega) (by omega))

end SmagicBound

/-- Settles O24: the loaded registers are the loop's at `p = 31`, and the rest is said of the bound. -/
theorem smagicAcceptLoadsTheSearch : Obligations.SmagicAcceptLoadsTheSearch := by
  intro a b s hp hdom d ad lim
  have hcheck := domainError_eq_none (divisorError_smagic_eq_none hdom)
  have hd : (effectiveDivisor a).toInt = d := toInt_effectiveDivisor hdom.1
  obtain ⟨hlow, hhigh⟩ := smagicDomainError_eq_none hcheck
  obtain ⟨inv, hp31, hdv⟩ := loadSmagic_inv hcheck { s.w with op := .smagic }
  have hneg := loadSmagic_neg { s.w with op := .smagic } (effectiveDivisor a)
  obtain ⟨_, _, hnc, _, _, hq1, hr1, hq2, hr2, _⟩ := inv
  rw [hd] at hlow hhigh hdv hneg
  rw [hp31] at hq1 hr1 hq2 hr2
  rw [hdv] at hq2 hr2
  rw [hdv, hneg] at hnc
  obtain ⟨hb, hb'⟩ := smagicBound_range hlow hhigh
  have hlim : 2 ^ 31 + (decide (d < 0)).toNat = lim := by
    by_cases h : d < 0 <;> simp [lim, h]
  have hmax (m : Nat) (hm : m ≤ lim - 1) (hmod : m % ad = ad - 1) : m ≤ smagicBound (decide (d < 0)) ad :=
    le_smagicBound hlow hhigh (by omega) hmod
  have hfirst := two_pow_31_div_smagicBound hlow hhigh
  obtain ⟨_, hdmin, hdmax, _⟩ := foldsReadTheEffectiveDivisor a hdom.1
  rw [← hnc] at hb hb' hmax
  rw [← hnc, ← hq1] at hfirst
  exact ⟨_, exec_smagic_of_smagicDomain b hp hdom, rfl, rfl, hneg, hdv, hlow, by omega, by omega,
    hnc.trans (smagicBound_decide d ad), hnc ▸ smagicBound_mod hlow hhigh, hmax, hb, hb', hp31, hq1, hr1, hq2, hr2,
    hfirst, rfl, rfl, rfl, rfl, rfl, rfl⟩

/-! One iteration (R115 to R117). -/

/-- The search goes on exactly while `2^p <= nc * delta(p)`, whatever the bound. -/
theorem smagicGoesOn_searchAt_iff {nc ad p : Nat} (hnc : 0 < nc) (had : 0 < ad) :
    smagicGoesOn ad (searchAt nc ad 0 p) = true ↔ ¬ nc * (ad - 2 ^ p % ad) < 2 ^ p := by
  have hr : 2 ^ p % ad < ad := Nat.mod_lt _ had
  have hdelta : smagicDelta ad (2 ^ p % ad) = ((ad - 2 ^ p % ad : Nat) : Int) := by
    rw [smagicDelta]
    omega
  simp only [smagicGoesOn, searchAt, Nat.sub_zero, hdelta, searchContinues_iff hnc, Nat.not_lt]

theorem shiftField_eq_ofNat {p : Nat} (hp : 32 ≤ p) : shiftField p = BitVec.ofNat 6 (p - 32) := by
  rw [shiftField, ← BitVec.ofInt_natCast, Nat.cast_sub hp, Nat.cast_ofNat]

/-- The `value` field, with the multiplier as a natural number (R117). -/
theorem smagicValue_eq (neg : Bool) (q2 : Nat) :
    smagicValue neg q2 =
      if neg then BitVec.ofInt 32 (2 ^ 32 - ((q2 + 1 : Nat) : Int)) else BitVec.ofNat 32 (q2 + 1) := by
  rw [smagicValue, ← BitVec.ofInt_natCast, Nat.cast_succ]
  cases neg
  · rw [if_neg Bool.false_ne_true, if_neg Bool.false_ne_true]
  · rw [if_pos rfl, if_pos rfl]

theorem smagicResponse_eq {neg : Bool} {p q2 : Nat} (hp : 32 ≤ p) :
    smagicResponse neg p q2 =
      { status := .ok, add := false, shift := BitVec.ofNat 6 (p - 32)
        value := if neg then BitVec.ofInt 32 (2 ^ 32 - ((q2 + 1 : Nat) : Int)) else BitVec.ofNat 32 (q2 + 1) } := by
  rw [smagicResponse, okResponse, shiftField_eq_ofNat hp, smagicValue_eq]

/-- Settles O26: the doubled registers hold the search at `p + 1`, and the stop test is that of the closed form. -/
theorem smagicIterateDoubles : Obligations.SmagicIterateDoubles := by
  intro s hrst hphase hop hdv_low hdv_high hnc_low hnc_high hp_low hp_high hq1 hr1 hq2 hr2 p ad M
  have hsearch : searchOf s.w = searchAt s.w.nc.toNat ad 0 s.w.p.toNat := by
    simp only [searchOf, searchAt, Nat.sub_zero, hq1, hr1, hq2, hr2, ad]
  have hdoubled : searchOf (doubleRegisters 0 s.w) = searchAt s.w.nc.toNat ad 0 p :=
    searchOf_doubleRegisters (Nat.zero_le 1) (by omega) hdv_low (by omega) hsearch
  obtain ⟨hp', hq1', hr1', hq2', hr2'⟩ := Search.mk.inj hdoubled
  have hstep : step s = .next (endStep (iterateSmagic s)) := by
    rw [step_busy hrst hphase, iterate_of_smagic hop, mapNext_next]
  have hgo := smagicGoesOn_searchAt_iff (nc := s.w.nc.toNat) (ad := ad) (p := p) (by omega) (by omega)
  rw [hstep, iterateSmagic_eq, hdoubled]
  by_cases hstop : s.w.nc.toNat * (ad - 2 ^ p % ad) < 2 ^ p
  · rw [if_neg (fun h => hgo.1 h hstop)]
    refine ⟨_, rfl, hp', hq1', hr1', hq2', hr2', hop, rfl, rfl, rfl, rfl, rfl, rfl, ?_, rfl, rfl⟩
    rw [if_pos hstop]
    exact ⟨rfl, congrArg packResponse (smagicResponse_eq (Nat.succ_le_succ hp_low))⟩
  · rw [if_pos (hgo.2 hstop)]
    refine ⟨_, rfl, hp', hq1', hr1', hq2', hr2', hop, rfl, rfl, rfl, rfl, rfl, rfl, ?_, rfl, rfl⟩
    rw [if_neg hstop]
    exact ⟨hphase, rfl⟩

/-! The answer (R118, R120). -/

/-- For a multiplier of 32 bits the complement in the `value` field is one of natural numbers. -/
theorem smagicValue_eq_of_lt {neg : Bool} {q2 : Nat} (h : q2 + 1 < 2 ^ 32) :
    smagicValue neg q2 = if neg then BitVec.ofNat 32 (2 ^ 32 - (q2 + 1)) else BitVec.ofNat 32 (q2 + 1) := by
  rw [smagicValue_eq, ← BitVec.ofInt_natCast 32 (2 ^ 32 - (q2 + 1)), Nat.cast_sub h.le, Nat.cast_pow, Nat.cast_ofNat]

/-- Settles O27: the machine's answer and `ExecSMAGIC`'s, with the bound and the value written by the sign of `d`. -/
theorem smagicAnswersTheClosedForm : Obligations.SmagicAnswersTheClosedForm := by
  intro a b s hp hdom d ad t anc
  have he := divisorError_smagic_eq_none hdom
  obtain ⟨hlow, hhigh⟩ := smagicDomainError_eq_none (domainError_eq_none he)
  obtain ⟨last, u, _, hle, hlast, hreach, hresult, hrsp⟩ := smagic_answers b hp he
  have hM := smagic_multiplier_lt hlow hhigh hlast
  rw [show (effectiveDivisor a).toInt = d from toInt_effectiveDivisor hdom.1] at hlast hresult hrsp hM
  have hstops : smagicStopsAt (decide (d < 0)) ad = fun k => anc * (ad - 2 ^ k % ad) < 2 ^ k := by
    funext k
    rw [smagicStopsAt, smagicBound_decide]
  have hvalue : smagicValue (decide (d < 0)) (2 ^ last / ad) =
      if 0 < d then BitVec.ofNat 32 (2 ^ last / ad + 1) else BitVec.ofNat 32 (2 ^ 32 - (2 ^ last / ad + 1)) := by
    rw [smagicValue_eq_of_lt hM]
    have had : 1 < d.natAbs := hdom.2
    rcases (show d < 0 ∨ 0 < d by omega) with hneg | hpos
    · rw [decide_eq_true hneg, if_pos rfl, if_neg hneg.not_gt]
    · rw [decide_eq_false hpos.not_gt, if_neg Bool.false_ne_true, if_pos hpos]
  refine ⟨last, u, _, hstops ▸ hlast, hle, hM, ?_, hresult, hreach, hrsp, hreach.phase, hreach.sameOutside hp⟩
  rw [smagicResponse, okResponse, shiftField_eq_ofNat hlast.1, ← hvalue]

/-- The divisor `-2^31` stops at `p = 62`: `anc * delta = (2^31 - 1) * 2^31` (R118). -/
theorem isLeastFrom_smagicStopsAt_min : IsLeastFrom 32 (smagicStopsAt true (2 ^ 31)) 62 := by
  refine ⟨by norm_num, smagicStopsAt_62 (by norm_num) (by simp), fun k hlow hk hstop => ?_⟩
  have hrem : 2 ^ k % 2 ^ 31 = 0 := Nat.mod_eq_zero_of_dvd (pow_dvd_pow 2 (by omega))
  have hpow : 2 ^ k ≤ 2 ^ 61 := Nat.pow_le_pow_right (by norm_num) (by omega)
  have hbound : smagicBound true (2 ^ 31) = 2 ^ 31 - 1 := rfl
  rw [smagicStopsAt, hbound, hrem] at hstop
  omega

/-- Settles O28: the loop runs from `p = 31` to the exponent of the closed form, which is 62 for `-2^31`. -/
theorem smagicTerminates : Obligations.SmagicTerminates := by
  constructor
  · intro a b s hp hdom
    obtain ⟨last, u, hlt, hle, _, hreach, _, hrsp⟩ := smagic_answers b hp (divisorError_smagic_eq_none hdom)
    refine ⟨last - 31, u, hreach, by omega, by omega, ?_⟩
    rw [hrsp, unpackResponse_packResponse, smagicResponse, okResponse, toNat_shiftField hlt (by omega)]
    omega
  · intro b s hp
    have hd : (effectiveDivisor (BitVec.ofInt 64 (-2 ^ 31))).toInt = -2 ^ 31 := by decide
    obtain ⟨last, u, _, _, hlast, hreach, _, hrsp⟩ :=
      smagic_answers (a := BitVec.ofInt 64 (-2 ^ 31)) b hp (divisorError_smagic_eq_none (by decide))
    rw [hd] at hlast hrsp
    obtain rfl : last = 62 := hlast.unique isLeastFrom_smagicStopsAt_min
    refine ⟨u, hreach, ?_⟩
    rw [hrsp, unpackResponse_packResponse]
    decide

end Sys2Proof.Machine

/-! ## UMAGIC, command by command (42_umagic R141 to R151)

The operand's domain, the bound ACCEPT loads, one iteration on registers in range, the response in closed form, and the
guard. -/

namespace Sys2Proof.Machine

/-! The domain (R141). -/

section UmagicDomain

variable {a : OperandWord}

/-- The effective divisor, read as an unsigned integer, is the unsigned fold (30_encoding R78). -/
theorem toNat_effectiveDivisor (h : DivisorRange a) : (effectiveDivisor a).toNat = (unsignedFold a.toInt).toNat := by
  obtain ⟨_, _, _, hfold, _⟩ := foldsReadTheEffectiveDivisor a h
  rw [hfold, Int.toNat_natCast]

/-- The operands in range that fail are 0 and 1. -/
theorem umagicDomain_iff (h : DivisorRange a) : UmagicDomain a ↔ ¬ (a.toInt = 0 ∨ a.toInt = 1) := by
  obtain ⟨hlow, hhigh⟩ := h
  rw [UmagicDomain, and_iff_right (show DivisorRange a from ⟨hlow, hhigh⟩), unsignedFold]
  omega

/-- Of the operands in range, those of UMAGIC's domain pass the check and the others are degenerate. -/
theorem divisorError_umagic (h : DivisorRange a) :
    divisorError umagicDomainError a = if UmagicDomain a then none else some .errDegenerate := by
  rw [divisorError_of_divisorRange _ h, umagicDomainError, toNat_effectiveDivisor h]
  by_cases hdom : UmagicDomain a
  · rw [if_pos hdom, if_neg]
    have := hdom.2
    omega
  · rw [if_neg hdom, if_pos]
    have : ¬ 1 < unsignedFold a.toInt := fun hlt => hdom ⟨h, hlt⟩
    omega

theorem divisorError_umagic_eq_none (h : UmagicDomain a) : divisorError umagicDomainError a = none := by
  rw [divisorError_umagic h.1, if_pos h]

/-- ACCEPT of an operand of the domain starts the loop with its effective divisor. -/
theorem exec_umagic_of_umagicDomain (b : OperandWord) {s : State} (hp : s.phase = .idle) (h : UmagicDomain a) :
    exec (.umagic a b) s = .next (startedLoop .umagic (loadUmagic (effectiveDivisor a)) s) :=
  (exec_umagic a b s).trans (acceptDivisor_of_valid hp (divisorError_umagic_eq_none h))

end UmagicDomain

/-- Settles O32: the operand check has three outcomes, for operands out of range, degenerate and of the domain. -/
theorem umagicDomainErrors : Obligations.UmagicDomainErrors := by
  intro a b s hp
  refine ⟨fun hout => ?_, fun hdegenerate => ?_, fun hin hne => ?_⟩
  · exact (exec_umagic a b s).trans (acceptDivisor_of_error hp (divisorError_of_not_divisorRange _ hout))
  · have hin : DivisorRange a := by omega
    have hdom : ¬ UmagicDomain a := fun hdom => (umagicDomain_iff hin).1 hdom hdegenerate
    have he : divisorError umagicDomainError a = some .errDegenerate := by rw [divisorError_umagic hin, if_neg hdom]
    exact (exec_umagic a b s).trans (acceptDivisor_of_error hp he)
  · exact ⟨_, exec_umagic_of_umagicDomain b hp ((umagicDomain_iff hin).2 hne), rfl⟩

/-! The bound `nc` (R143). -/

/-- A number has the residue `d - 1` exactly when its successor is a multiple of `d`. -/
theorem mod_eq_pred_iff_dvd_succ {d m : Nat} (hd : 0 < d) : m % d = d - 1 ↔ d ∣ m + 1 := by
  obtain ⟨k, rfl⟩ := Nat.exists_eq_succ_of_ne_zero hd.ne'
  rw [Nat.succ_sub_one, ← Nat.succ_mod_succ_eq_zero_iff, Nat.dvd_iff_mod_eq_zero]

section UmagicBound

variable {du : Nat}

theorem umagicBound_eq_sub_mod (hhigh : du < 2 ^ 32) : umagicBound du = 2 ^ 32 - 1 - 2 ^ 32 % du := by
  rw [umagicBound, ← Nat.mod_eq_sub_mod hhigh.le]

/-- The bound is one below the last multiple of `du` up to `2^32`. -/
theorem umagicBound_succ (hlow : 2 ≤ du) (hhigh : du < 2 ^ 32) : umagicBound du + 1 = 2 ^ 32 / du * du := by
  have hdiv := Nat.div_add_mod' (2 ^ 32) du
  have hpos := (umagicBound_range hlow hhigh).1
  rw [umagicBound_eq_sub_mod hhigh] at hpos ⊢
  omega

theorem umagicBound_mod (hlow : 2 ≤ du) (hhigh : du < 2 ^ 32) : umagicBound du % du = du - 1 := by
  rw [mod_eq_pred_iff_dvd_succ (by omega), umagicBound_succ hlow hhigh]
  exact Nat.dvd_mul_left du _

theorem le_umagicBound {m : Nat} (hlow : 2 ≤ du) (hhigh : du < 2 ^ 32) (hm : m + 1 ≤ 2 ^ 32)
    (hmod : m % du = du - 1) : m ≤ umagicBound du := by
  have hdvd : du ∣ m + 1 := (mod_eq_pred_iff_dvd_succ (by omega)).1 hmod
  refine Nat.le_of_succ_le_succ ?_
  calc m + 1 = (m + 1) / du * du := (Nat.div_mul_cancel hdvd).symm
    _ ≤ 2 ^ 32 / du * du := Nat.mul_le_mul_right du (Nat.div_le_div_right hm)
    _ = umagicBound du + 1 := (umagicBound_succ hlow hhigh).symm

/-- The bound is `2^31` for the divisor `2^31 + 1` alone: a divisor below `2^31` would leave room for a larger bound,
and `du` divides `2^31 + 1`. -/
theorem eq_of_umagicBound_eq (hlow : 2 ≤ du) (hhigh : du < 2 ^ 32) (h : umagicBound du = 2 ^ 31) :
    du = 2 ^ 31 + 1 := by
  have hmod := umagicBound_mod hlow hhigh
  rw [h] at hmod
  have hlarge : 2 ^ 31 ≤ du := by
    by_contra hsmall
    have := le_umagicBound (m := 2 ^ 31 + du) hlow hhigh (by omega) (by rw [Nat.add_mod_right, hmod])
    omega
  have hle : du ≤ 2 ^ 31 + 1 := Nat.le_of_dvd (by norm_num) ((mod_eq_pred_iff_dvd_succ (by omega)).1 hmod)
  rcases (show du = 2 ^ 31 ∨ du = 2 ^ 31 + 1 by omega) with rfl | heq
  · norm_num at hmod
  · exact heq

/-- The first quotient is 0, but for the divisor `2^31 + 1` (R144). -/
theorem two_pow_31_div_umagicBound (hlow : 2 ≤ du) (hhigh : du < 2 ^ 32) :
    2 ^ 31 / umagicBound du = 0 ∨
      (2 ^ 31 / umagicBound du = 1 ∧ umagicBound du = 2 ^ 31 ∧ du = 2 ^ 31 + 1) := by
  rcases (umagicBound_range hlow hhigh).1.eq_or_lt with heq | hlt
  · exact .inr ⟨by rw [← heq]; norm_num, heq.symm, eq_of_umagicBound_eq hlow hhigh heq.symm⟩
  · exact .inl (Nat.div_eq_of_lt hlt)

end UmagicBound

/-- Settles O31: the loaded registers are the loop's at `p = 31`, and the rest is said of the bound. -/
theorem umagicAcceptLoadsTheSearch : Obligations.UmagicAcceptLoadsTheSearch := by
  intro a b s hp hdom du
  have hcheck := domainError_eq_none (divisorError_umagic_eq_none hdom)
  have hdu : (effectiveDivisor a).toNat = du := toNat_effectiveDivisor hdom.1
  have hlow := umagicDomainError_eq_none hcheck
  have hhigh := (effectiveDivisor a).isLt
  obtain ⟨inv, hp31⟩ := loadUmagic_inv hcheck { s.w with op := .umagic }
  obtain ⟨_, hnc, _, _, hq1, hr1, hq2, hr2, _⟩ := inv
  rw [loadUmagic_dv, hdu] at hnc
  rw [hp31] at hq1 hr1
  rw [hp31, loadUmagic_dv, hdu] at hq2 hr2
  rw [hdu] at hlow hhigh
  obtain ⟨hb, hb'⟩ := umagicBound_range hlow hhigh
  have hsucc := umagicBound_succ hlow hhigh
  have hmax (m : Nat) (hm : m ≤ 2 ^ 32 - 1) (hmod : m % du = du - 1) : m ≤ umagicBound du :=
    le_umagicBound hlow hhigh (by omega) hmod
  have hfirst := two_pow_31_div_umagicBound hlow hhigh
  rw [← hnc] at hb hb' hmax hsucc
  rw [← hnc, ← hq1] at hfirst
  exact ⟨_, exec_umagic_of_umagicDomain b hp hdom, rfl, rfl, hdu, hlow, by omega, hnc,
    hnc.trans (umagicBound_eq_sub_mod hhigh), Nat.eq_sub_of_add_eq hsucc, hnc ▸ umagicBound_mod hlow hhigh, hmax, hb,
    Nat.le_pred_of_lt hb', rfl, hp31, hq1, hr1, hq2, hr2, hfirst, rfl, rfl, rfl, rfl, rfl, rfl⟩

/-! One iteration (R145 to R147). -/

/-- The stop test without the guard: the search goes on exactly while `2^p <= nc * delta(p)`, whatever the bound. -/
theorem searchContinues_umagic_iff {nc du p : Nat} (hnc : 0 < nc) (hdu : 0 < du) :
    searchContinues (2 ^ p / nc) (2 ^ p % nc) (umagicDelta du ((2 ^ p - 1) % du)) = true ↔
      2 ^ p ≤ nc * (du - 1 - (2 ^ p - 1) % du) := by
  have hr : (2 ^ p - 1) % du < du := Nat.mod_lt _ hdu
  have hdelta : umagicDelta du ((2 ^ p - 1) % du) = ((du - 1 - (2 ^ p - 1) % du : Nat) : Int) := by
    rw [umagicDelta]
    omega
  rw [hdelta, searchContinues_iff hnc]

theorem umagicGoesOn_searchAt_iff {nc du p : Nat} (hnc : 0 < nc) (hdu : 0 < du) :
    umagicGoesOn du (searchAt nc du 1 p) = true ↔ p < 64 ∧ 2 ^ p ≤ nc * (du - 1 - (2 ^ p - 1) % du) := by
  rw [umagicGoesOn, Bool.and_eq_true, underCap, decide_eq_true_iff, Config.pCap]
  exact and_congr_right' (searchContinues_umagic_iff hnc hdu)

theorem umagicResponse_eq {af : Bool} {p q2 : Nat} (hp : 32 ≤ p) :
    umagicResponse af p q2 =
      { status := .ok, add := af, shift := BitVec.ofNat 6 (p - 32), value := BitVec.ofNat 32 (q2 + 1) } := by
  rw [umagicResponse, okResponse, shiftField_eq_ofNat hp, umagicValue]

theorem step_umagic {s : State} (hrst : s.host.levels.rst = false) (hphase : s.phase = .busy)
    (hop : s.w.op = .umagic) : step s = .next (endStep (iterateUmagic s)) := by
  rw [step_busy hrst hphase, iterate_of_umagic hop, mapNext_next]

/-- The add test, as the flag it leaves (R145 (b)). -/
theorem umagicRegisters_af_iff (w : Working) :
    (umagicRegisters w).af = true ↔ w.af = true ∨ 2 ^ 31 ≤ w.q2.toNat := by
  rw [umagicRegisters_af, Bool.or_eq_true, addRaised, decide_eq_true_iff, searchOf]

/-- Settles O33: the doubled registers hold the search at `p + 1`, and the stop test is the guard with that of the
closed form. -/
theorem umagicIterateDoubles : Obligations.UmagicIterateDoubles := by
  intro s hrst hphase hop hdv_low hnc_low hp_low hp_high hq1 hr1 hq2 hr2 p du
  have hsearch : searchOf s.w = searchAt s.w.nc.toNat du 1 s.w.p.toNat := by
    simp only [searchOf, searchAt, hq1, hr1, hq2, hr2, du]
  have hdoubled : searchOf (doubleRegisters 1 s.w) = searchAt s.w.nc.toNat du 1 p :=
    searchOf_doubleRegisters (le_refl 1) (by omega) hdv_low hp_high hsearch
  obtain ⟨hp', hq1', hr1', hq2', hr2'⟩ := Search.mk.inj hdoubled
  have haf := umagicRegisters_af_iff s.w
  have hgo := umagicGoesOn_searchAt_iff (nc := s.w.nc.toNat) (du := du) (p := p) (by omega) (by omega)
  rw [step_umagic hrst hphase hop, iterateUmagic_eq, hdoubled]
  by_cases hcont : p < 64 ∧ 2 ^ p ≤ s.w.nc.toNat * (du - 1 - (2 ^ p - 1) % du)
  · rw [if_pos (hgo.2 hcont)]
    refine ⟨_, rfl, hp', hq1', hr1', hq2', hr2', haf, hop, rfl, rfl, rfl, rfl, rfl, ?_, rfl, rfl⟩
    rw [if_pos hcont]
    exact ⟨hphase, rfl⟩
  · rw [if_neg (hcont ∘ hgo.1)]
    refine ⟨_, rfl, hp', hq1', hr1', hq2', hr2', haf, hop, rfl, rfl, rfl, rfl, rfl, ?_, rfl, rfl⟩
    rw [if_neg hcont]
    exact ⟨rfl, congrArg packResponse (umagicResponse_eq (Nat.succ_le_succ hp_low))⟩

/-! The answer (R146, R148, R151). -/

/-- Every divisor of `2^32` stops at `p = 32`, where `delta = 0`. -/
theorem umagicStopsAt_32_of_dvd {du : Nat} (hdu : 0 < du) (h : du ∣ 2 ^ 32) : umagicStopsAt du 32 := by
  have hmod : (2 ^ 32 - 1) % du = du - 1 := (mod_eq_pred_iff_dvd_succ hdu).2 h
  rw [umagicStopsAt, hmod, Nat.sub_self, Nat.mul_zero]
  norm_num

/-- The ideal multiplier is never exactly `2^32` (R146): `delta` would be `2^32 * (du - 2^(p - 32))`, so 0 and `du` a
power of two; but for these `p = 32`. -/
theorem umagic_multiplier_ne {du last : Nat} (hlow : 2 ≤ du) (hhigh : du < 2 ^ 32)
    (hlast : IsLeastFrom 32 (umagicStopsAt du) last) (hle : last ≤ 64) : (2 ^ last - 1) / du + 1 ≠ 2 ^ 32 := by
  intro hM
  obtain ⟨hge, _, hleast⟩ := hlast
  obtain ⟨k, rfl⟩ := Nat.exists_eq_add_of_le hge
  have hdiv := Nat.div_add_mod (2 ^ (32 + k) - 1) du
  have hr := Nat.mod_lt (2 ^ (32 + k) - 1) (show 0 < du by omega)
  have hpos := Nat.one_le_two_pow (n := k)
  have hdu : du = 2 ^ k := by
    rw [show (2 ^ (32 + k) - 1) / du = 2 ^ 32 - 1 by omega, pow_add] at hdiv
    rw [pow_add] at hr
    omega
  have hk : k ≠ 0 := by
    rintro rfl
    omega
  have hstop : umagicStopsAt du 32 := umagicStopsAt_32_of_dvd (by omega) (hdu ▸ pow_dvd_pow 2 (by omega))
  exact hleast 32 (le_refl 32) (by omega) hstop

/-- The add indicator of the answer is whether the ideal multiplier needs a 33rd bit (R148). -/
theorem umagicAddAt_last {du last : Nat} (hlow : 2 ≤ du) (hhigh : du < 2 ^ 32)
    (hlast : IsLeastFrom 32 (umagicStopsAt du) last) (hle : last ≤ 64) :
    umagicAddAt du last = decide (2 ^ 32 ≤ (2 ^ last - 1) / du + 1) := by
  have hne := umagic_multiplier_ne hlow hhigh hlast hle
  rw [umagicAddAt, decide_eq_decide]
  omega

/-- Settles O34: the machine's answer and `ExecUMAGIC`'s, with the add indicator read off the ideal multiplier. -/
theorem umagicAnswersTheClosedForm : Obligations.UmagicAnswersTheClosedForm := by
  intro a b s hp hdom du nc
  have he := divisorError_umagic_eq_none hdom
  have hlow := umagicDomainError_eq_none (domainError_eq_none he)
  have hhigh := (effectiveDivisor a).isLt
  obtain ⟨last, u, _, hle, hlast, hreach, hresult, hrsp⟩ := umagic_answers b hp he
  rw [show (effectiveDivisor a).toNat = du from toNat_effectiveDivisor hdom.1] at hlow hhigh hlast hresult hrsp
  refine ⟨last, u, _, hlast, hle, ?_, hresult, hreach, hrsp, hreach.phase, hreach.sameOutside hp⟩
  rw [umagicAddAt_last hlow hhigh hlast hle, umagicResponse_eq hlast.1]

/-! The guard (R149). -/

/-- Both ways out of an iteration keep the new registers. -/
theorem iterateUmagic_w (s : State) : (iterateUmagic s).w = umagicRegisters s.w := by
  rw [iterateUmagic_eq]
  split <;> rfl

/-- From a state of the loop, an iteration stays in BUSY exactly when the stop condition does not hold at the
new `p`. -/
theorem iterateUmagic_phase_iff {s : State} (hphase : s.phase = .busy) (h : UmagicBusy s.w) :
    (iterateUmagic s).phase = .busy ↔ ¬ umagicStopsAt s.w.dv.toNat (s.w.p.toNat + 1) := by
  by_cases hstop : umagicStopsAt s.w.dv.toNat (s.w.p.toNat + 1)
  · rw [iterateUmagic_ends h hstop, respond_phase]
    simp [hstop]
  · obtain ⟨e, _⟩ := iterateUmagic_goesOn h hstop
    rw [e, withWorking_phase]
    simp [hphase, hstop]

/-- From a state of the loop, the test on the new registers is that of the closed form, without the guard. -/
theorem UmagicBusy.searchContinues_umagicRegisters {w : Working} (h : UmagicBusy w) :
    searchContinues (umagicRegisters w).q1.toNat (umagicRegisters w).r1.toNat
        (umagicDelta w.dv.toNat (umagicRegisters w).r2.toNat) = true ↔
      ¬ umagicStopsAt w.dv.toNat (w.p.toNat + 1) := by
  have hb := (umagicBound_range h.dv_low w.dv.isLt).1
  have hdv := h.dv_low
  have hsearch := (searchOf_umagicRegisters w).trans h.searchOf_doubled
  obtain ⟨_, hq1, hr1, _, hr2⟩ := Search.mk.inj hsearch
  rw [hq1, hr1, hr2, searchContinues_umagic_iff (by omega) (by omega), umagicStopsAt, Nat.not_lt]

/-- Settles O35: the step stays in BUSY exactly when the stop condition does not hold, and so does the test on the new
registers. -/
theorem umagicGuardNeverDecides : Obligations.UmagicGuardNeverDecides := by
  intro s t hrst hphase hop inv hstep
  obtain rfl : endStep (iterateUmagic s) = t := by simpa [step_umagic hrst hphase hop] using hstep
  have htest := inv.searchContinues_umagicRegisters
  rw [searchContinues, decide_eq_true_iff, umagicDelta] at htest
  rw [endStep_phase, endStep_w, iterateUmagic_w, umagicRegisters_dv, htest]
  exact iterateUmagic_phase_iff hphase inv

end Sys2Proof.Machine

/-! ## MODINV, command by command (43_modinv R170 to R175)

The operand's domain, the registers ACCEPT loads, one iteration, the inverse it answers, and the divisors that need no
update. -/

namespace Sys2Proof.Machine

/-! The domain (R171). -/

section ModinvDomain

variable {a : OperandWord}

/-- Of the operands in range, the odd ones pass the check and the others are even. -/
theorem divisorError_modinv (h : DivisorRange a) :
    divisorError modinvDomainError a = if a.toInt % 2 = 1 then none else some .errEven := by
  rw [divisorError_of_divisorRange _ h, modinvDomainError]
  have hparity := effectiveDivisor_getLsbD_zero a
  cases hbit : (effectiveDivisor a).getLsbD 0 <;> rw [hbit] at hparity
  · rw [if_pos rfl, if_neg (mt hparity.2 Bool.false_ne_true)]
  · rw [if_neg nofun, if_pos (hparity.1 rfl)]

theorem divisorError_modinv_eq_none (h : ModinvDomain a) : divisorError modinvDomainError a = none := by
  rw [divisorError_modinv h.1, if_pos h.2]

/-- ACCEPT of an operand of the domain starts the loop with its effective divisor. -/
theorem exec_modinv_of_modinvDomain (b : OperandWord) {s : State} (hp : s.phase = .idle) (h : ModinvDomain a) :
    exec (.modinv a b) s = .next (startedLoop .modinv (loadModinv (effectiveDivisor a)) s) :=
  (exec_modinv a b s).trans (acceptDivisor_of_valid hp (divisorError_modinv_eq_none h))

end ModinvDomain

/-- Settles O39: the operand check has three outcomes, for operands out of range, even and odd. -/
theorem modinvDomainErrors : Obligations.ModinvDomainErrors := by
  intro a b s hp
  refine ⟨fun hout => ?_, fun hin heven => ?_, fun hin hodd => ?_⟩
  · exact (exec_modinv a b s).trans (acceptDivisor_of_error hp (divisorError_of_not_divisorRange _ hout))
  · have he : divisorError modinvDomainError a = some .errEven := by
      rw [divisorError_modinv hin, if_neg (by omega)]
    exact (exec_modinv a b s).trans (acceptDivisor_of_error hp he)
  · exact ⟨_, exec_modinv_of_modinvDomain b hp ⟨hin, hodd⟩, rfl⟩

/-- Settles O38: the loaded registers are a place in the loop, and the square of the divisor is their product. -/
theorem modinvAcceptLoadsTheSquare : Obligations.ModinvAcceptLoadsTheSquare := by
  intro a b s hp hdom du
  have hdu : (effectiveDivisor a).toNat = du := toNat_effectiveDivisor hdom.1
  obtain ⟨_, hproduct, hbits⟩ :=
    loadModinv_inv (domainError_eq_none (divisorError_modinv_eq_none hdom)) { s.w with op := .modinv }
  rw [loadModinv_dv, loadModinv_xn, hdu] at hproduct
  exact ⟨_, exec_modinv_of_modinvDomain b hp hdom, rfl, rfl, hdu, hdu, hproduct, hbits, rfl, rfl, rfl, rfl, rfl, rfl,
    rfl, rfl, rfl, rfl, rfl⟩

/-! One iteration (R173). -/

theorem step_modinv {s : State} (hrst : s.host.levels.rst = false) (hphase : s.phase = .busy)
    (hop : s.w.op = .modinv) : step s = .next (endStep (iterateModinv s)) := by
  rw [step_busy hrst hphase, iterate_of_modinv hop, mapNext_next]

/-- The Newton step over the integers: `2 - t` may be negative. -/
theorem toNat_newtonUpdate (xn t : Word) :
    ((newtonUpdate xn t).toNat : Int) = (xn.toNat : Int) * (2 - (t.toNat : Int)) % 2 ^ 32 :=
  mul32_toNat_eq_emod _ _

theorem toNat_modinvRegisters_t (w : Working) :
    (modinvRegisters w).t.toNat = w.dv.toNat * (modinvRegisters w).xn.toNat % 2 ^ 32 := by
  rw [modinvRegisters_product, BitVec.toNat_mul, modinvRegisters_dv]

/-- Settles O40: the two branches of the iteration, the update as one on integers and as one on words. -/
theorem modinvIterateNewton : Obligations.ModinvIterateNewton := by
  intro s hrst hphase hop
  rw [step_modinv hrst hphase hop, iterateModinv_eq]
  constructor
  · intro hone
    rw [if_pos hone]
    exact ⟨_, rfl, rfl, rfl, rfl, rfl, rfl⟩
  · intro hne
    rw [if_neg hne]
    exact ⟨_, rfl, hphase, rfl, rfl, toNat_newtonUpdate _ _, newtonUpdate_eq _ _, toNat_modinvRegisters_t s.w, rfl,
      rfl⟩

/-! The answer (R174, R175). -/

/-- Being inverse modulo `2^32`, said of numbers and of words. -/
theorem toNat_mul_mod_eq_one_iff (x y : Word) : x.toNat * y.toNat % 2 ^ 32 = 1 ↔ x * y = 1#32 := by
  rw [← BitVec.toNat_mul, ← BitVec.toNat_inj]
  rfl

/-- Settles O41: the loop ends at an inverse within 5 iterations, and a word has one inverse only. -/
theorem modinvAnswersTheInverse : Obligations.ModinvAnswersTheInverse := by
  intro a b s hp hdom du
  have he := divisorError_modinv_eq_none hdom
  have hdu : (effectiveDivisor a).toNat = du := toNat_effectiveDivisor hdom.1
  have hinverse (y : Word) : du * y.toNat % 2 ^ 32 = 1 ↔ effectiveDivisor a * y = 1#32 :=
    hdu ▸ toNat_mul_mod_eq_one_iff _ y
  obtain ⟨k, u, r, hk, hk5, hreach, hresult, hrsp⟩ := modinv_answers b hp he
  obtain ⟨xn, rfl, hxn⟩ := resultModinv_inverse he hresult
  have hunique (y : Word) (hy : du * y.toNat % 2 ^ 32 = 1) : y = xn :=
    left_inv_eq_right_inv ((BitVec.mul_comm _ _).trans ((hinverse y).1 hy)) hxn
  exact ⟨xn, k, u, hreach, hk, hk5, hreach.phase, hrsp, (hinverse xn).2 hxn, hunique, odd_of_mul_eq_one hxn,
    hreach.sameOutside hp⟩

/-! The divisors that need no update (R170, R175). -/

/-- The engine has no iteration to run exactly where the response is pending already. -/
theorem eq_zero_iff_of_runEngine {k : Nat} {s u : State} (h : runEngine k s = some u) : k = 0 ↔ s.phase = .resp := by
  cases k with
  | zero => simp [(runEngine_zero.1 h).1]
  | succ k => simp [(runEngine_succ.1 h).1]

theorem iterateModinv_phase_iff {s : State} (hphase : s.phase = .busy) :
    (iterateModinv s).phase = .resp ↔ s.w.t = 1#32 := by
  rcases iterateModinv_cases s with ⟨hone, e⟩ | ⟨hne, e⟩
  · rw [e, respond_phase, iff_true_left rfl]
    exact hone
  · rw [e, withWorking_phase]
    simp [hphase, hne]

/-- The first ITERATE of MODINV is the last one exactly when it finds `W.t = 1` (R173). -/
theorem modinv_single_iteration_iff {k : Nat} {s u : State} (hphase : s.phase = .busy) (hop : s.w.op = .modinv)
    (h : runEngine k s = some u) : k = 1 ↔ s.w.t = 1#32 := by
  cases k with
  | zero => simp [hphase, runEngine_zero] at h
  | succ k =>
    obtain ⟨_, t, hi, hu⟩ := runEngine_succ.1 h
    obtain rfl : iterateModinv s = t := by simpa [iterate_of_modinv hop] using hi
    rw [Nat.add_eq_right, eq_zero_iff_of_runEngine hu, iterateModinv_phase_iff hphase]

/-- The square roots of 1 modulo `2^32`: for `n = 2 * m + 1`, `2^30` divides `m * (m + 1)`, so one of the two
factors, which are coprime. -/
theorem sq_mod_eq_one_iff {n : Nat} (hn : n < 2 ^ 32) (hodd : n % 2 = 1) :
    n * n % 2 ^ 32 = 1 ↔ n = 1 ∨ n = 2 ^ 31 - 1 ∨ n = 2 ^ 31 + 1 ∨ n = 2 ^ 32 - 1 := by
  obtain ⟨m, rfl⟩ : ∃ m, n = 2 * m + 1 := ⟨n / 2, by omega⟩
  have hsquare : (2 * m + 1) * (2 * m + 1) = 4 * (m * (m + 1)) + 1 := by ring
  have hdvd : 2 ^ 30 ∣ m * (m + 1) ↔ 2 ^ 30 ∣ m ∨ 2 ^ 30 ∣ m + 1 :=
    Nat.Coprime.isPrimePow_dvd_mul (Nat.coprime_self_add_right.2 (Nat.coprime_one_right m))
      (Nat.prime_two.isPrimePow.pow (by norm_num))
  rw [hsquare]
  omega

/-- Settles O42: a single iteration is one that finds the divisor's square to be 1. -/
theorem modinvSelfInverseDivisors : Obligations.ModinvSelfInverseDivisors := by
  rintro a b s k u hp hdom ⟨t, ht, hu⟩ du
  have hdu : (effectiveDivisor a).toNat = du := toNat_effectiveDivisor hdom.1
  have hodd := modinvDomainError_eq_none (domainError_eq_none (divisorError_modinv_eq_none hdom))
  obtain rfl : startedLoop .modinv (loadModinv (effectiveDivisor a)) s = t := by
    simpa [exec_modinv_of_modinvDomain b hp hdom] using ht
  rw [modinv_single_iteration_iff rfl rfl hu, startedLoop_w, loadModinv_t, mul32_toNat_toNat,
    ← toNat_mul_mod_eq_one_iff, sq_mod_eq_one_iff (effectiveDivisor a).isLt hodd, hdu]

end Sys2Proof.Machine

/-! ## Operands that are one divisor, and exact division by the inverse (44_laws R191, R192) -/

namespace Sys2Proof.Machine

/-! Moving an operand by `2^32` keeps its low word (R192). -/

theorem effectiveDivisor_congr {a a' : OperandWord} (h : a'.toInt ≡ a.toInt [ZMOD 2 ^ 32]) :
    effectiveDivisor a' = effectiveDivisor a := by
  apply BitVec.eq_of_toNat_eq
  rw [effectiveDivisor_eq_ofInt, effectiveDivisor_eq_ofInt, BitVec.toNat_ofInt, BitVec.toNat_ofInt]
  exact congrArg Int.toNat h

theorem toInt_sub_two_pow_32 {a : OperandWord} (hlow : 0 ≤ a.toInt) :
    (a - 0x100000000#64).toInt = a.toInt - 2 ^ 32 := by
  have hhigh := a.toInt_lt
  have hmoved : (0x100000000#64).toInt = 2 ^ 32 := by decide
  rw [BitVec.toInt_sub, hmoved, Int.bmod_eq_of_le] <;> omega

theorem toInt_add_two_pow_32 {a : OperandWord} (hhigh : a.toInt < 0) :
    (a + 0x100000000#64).toInt = a.toInt + 2 ^ 32 := by
  have hlow := a.le_toInt
  have hmoved : (0x100000000#64).toInt = 2 ^ 32 := by decide
  rw [BitVec.toInt_add, hmoved, Int.bmod_eq_of_le] <;> omega

/-- Two operands that are one divisor: both in range, with the same effective divisor (30_encoding R76). -/
structure SameDivisor (a a' : OperandWord) : Prop where
  range : DivisorRange a
  range' : DivisorRange a'
  effective : effectiveDivisor a' = effectiveDivisor a

section SameDivisor

variable {a a' : OperandWord}

theorem sameDivisor_sub_two_pow_32 (hlow : 2 ^ 31 ≤ a.toInt) (hhigh : a.toInt ≤ 2 ^ 32 - 1) :
    SameDivisor a (a - 0x100000000#64) := by
  have hmoved := toInt_sub_two_pow_32 (show 0 ≤ a.toInt by omega)
  refine ⟨by omega, by omega, effectiveDivisor_congr ?_⟩
  rw [hmoved]
  exact Int.sub_modulus_modEq_iff.2 rfl

theorem sameDivisor_add_two_pow_32 (hlow : -2 ^ 31 ≤ a.toInt) (hhigh : a.toInt ≤ -1) :
    SameDivisor a (a + 0x100000000#64) := by
  have hmoved := toInt_add_two_pow_32 (show a.toInt < 0 by omega)
  refine ⟨by omega, by omega, effectiveDivisor_congr ?_⟩
  rw [hmoved]
  exact Int.add_modulus_modEq_iff.2 rfl

/-- The check sees nothing of an in-range operand but its effective divisor. -/
theorem SameDivisor.divisorError_eq (h : SameDivisor a a') (own : Word → Option Status) :
    divisorError own a = divisorError own a' := by
  rw [divisorError_of_divisorRange own h.range, divisorError_of_divisorRange own h.range', h.effective]

theorem SameDivisor.startDivisorCommand_eq (h : SameDivisor a a') (own : Word → Option Status)
    (load : Word → Working → Working) : startDivisorCommand own load a = startDivisorCommand own load a' := by
  funext s
  simp only [startDivisorCommand, h.divisorError_eq own, h.effective]

theorem SameDivisor.smagic_eq (h : SameDivisor a a') (b : OperandWord) (s : State) :
    exec (.smagic a b) s = exec (.smagic a' b) s ∧ resultSmagic a = resultSmagic a' := by
  refine ⟨by rw [exec_smagic, exec_smagic, h.startDivisorCommand_eq], ?_⟩
  simp only [resultSmagic, h.divisorError_eq, h.effective]

theorem SameDivisor.umagic_eq (h : SameDivisor a a') (b : OperandWord) (s : State) :
    exec (.umagic a b) s = exec (.umagic a' b) s ∧ resultUmagic a = resultUmagic a' := by
  refine ⟨by rw [exec_umagic, exec_umagic, h.startDivisorCommand_eq], ?_⟩
  simp only [resultUmagic, h.divisorError_eq, h.effective]

theorem SameDivisor.modinv_eq (h : SameDivisor a a') (b : OperandWord) (s : State) :
    exec (.modinv a b) s = exec (.modinv a' b) s ∧ resultModinv a = resultModinv a' := by
  refine ⟨by rw [exec_modinv, exec_modinv, h.startDivisorCommand_eq], ?_⟩
  simp only [resultModinv, h.divisorError_eq, h.effective]

end SameDivisor

/-- MUL32 sees the low words of its operands alone (40_mul32 R102). -/
theorem mul32_eq_of_low_words {a a' b b' : OperandWord} (ha : effectiveDivisor a = effectiveDivisor a')
    (hb : effectiveDivisor b = effectiveDivisor b') (s : State) :
    exec (.mul32 a b) s = exec (.mul32 a' b') s ∧ resultMul32 a b = resultMul32 a' b' := by
  have hresult : resultMul32 a b = resultMul32 a' b' := by rw [resultMul32_eq, resultMul32_eq, ha, hb]
  exact ⟨by rw [exec_mul32, exec_mul32, hresult], hresult⟩

/-- An operand out of range has no effective divisor: every divisor command answers ERR_RANGE (60_exceptions R204). -/
theorem result_of_not_divisorRange {a : OperandWord} (h : ¬ DivisorRange a) :
    resultSmagic a = some (errorResponse .errRange) ∧ resultUmagic a = some (errorResponse .errRange) ∧
      resultModinv a = some (errorResponse .errRange) := by
  simp only [resultSmagic, resultUmagic, resultModinv, divisorError_of_not_divisorRange _ h, and_self]

/-- Settles O46: operands that differ by `2^32` within the range have the same effective divisor. -/
theorem normalisationLaws : Obligations.NormalisationLaws := by
  refine ⟨fun a b s hlow hhigh => ?_, fun a b s hlow hhigh => ?_, fun a a' b b' s ha hb => ?_, fun a hout => ?_⟩
  · exact (sameDivisor_sub_two_pow_32 hlow hhigh).smagic_eq b s
  · have hsame := sameDivisor_add_two_pow_32 hlow hhigh
    obtain ⟨humagic, humagic'⟩ := hsame.umagic_eq b s
    exact ⟨humagic, humagic', hsame.modinv_eq b s⟩
  · exact mul32_eq_of_low_words ha hb s
  · exact result_of_not_divisorRange hout

/-- Settles O43: the answer of MODINV is the inverse of the effective divisor modulo `2^32`. -/
theorem inverseDividesExactly : Obligations.InverseDividesExactly := by
  intro a b s hp hdom du
  have hdu : (effectiveDivisor a).toNat = du := toNat_effectiveDivisor hdom.1
  obtain ⟨xn, k, u, hreach, _, _, _, hrsp, hinverse, _⟩ := modinvAnswersTheInverse a b s hp hdom
  have hxn : effectiveDivisor a * xn = 1#32 := (toNat_mul_mod_eq_one_iff _ xn).1 (by rw [hdu]; exact hinverse)
  refine ⟨k, u, hreach, ?_⟩
  rw [hrsp, unpackResponse_packResponse]
  refine ⟨rfl, fun m => ?_⟩
  calc mul32 (mul32 m.toNat du).toNat xn.toNat
      = m * effectiveDivisor a * xn := by rw [← hdu, mul32_toNat_toNat, mul32_toNat_toNat]
    _ = m := by rw [BitVec.mul_assoc, hxn, BitVec.mul_one]

end Sys2Proof.Machine

/-! ## Division by a magic multiplier (44_laws R187, R189)

A multiplier `M` with `M * d = P + delta` takes a magnitude `m = k * d + r` to
`M * m / P = k + (r + m * delta / P) / d`. So the quotient is `k` as long as the error `P * r + m * delta` stays below
`P * d`. -/

namespace Sys2Proof.Machine

section MagicMultiplier

variable {M P delta d bound m : Nat}

theorem mul_magic_product (hM : M * d = P + delta) :
    d * (M * m) = d * (P * (m / d)) + (P * (m % d) + m * delta) := by
  have hm := Nat.div_add_mod m d
  calc d * (M * m) = M * d * m := by ring
    _ = P * (d * (m / d) + m % d) + m * delta := by rw [hM, hm]; ring
    _ = d * (P * (m / d)) + (P * (m % d) + m * delta) := by ring

/-- The quotient is that of the division while the error is below `P * d`. -/
theorem magic_floor (hd : 0 < d) (hM : M * d = P + delta) (herror : P * (m % d) + m * delta < P * d) :
    M * m / P = m / d := by
  have hproduct := mul_magic_product (m := m) hM
  have hlow : P * (m / d) ≤ M * m := Nat.le_of_mul_le_mul_left (by omega) hd
  have hhigh : M * m < P * (m / d) + P :=
    Nat.lt_of_mul_lt_mul_left (a := d) (by rw [Nat.mul_add, hproduct, Nat.mul_comm d P]; omega)
  exact Nat.div_eq_of_lt_le (by rwa [Nat.mul_comm]) (by rwa [Nat.succ_mul, Nat.mul_comm (m / d)])

/-- A negative product has the next quotient: here the error may reach `P * d` but not be 0. -/
theorem magic_floor_neg (hd : 0 < d) (hM : M * d = P + delta) (hdelta : 0 < delta) (hm : 0 < m)
    (herror : P * (m % d) + m * delta ≤ P * d) : -((M * m : Nat) : Int) / (P : Int) = -((m / d : Nat) + 1 : Int) := by
  have hproduct := mul_magic_product (m := m) hM
  have hpos : 0 < m * delta := Nat.mul_pos hm hdelta
  have hP : 0 < P := Nat.pos_of_ne_zero (by rintro rfl; omega)
  have hlow : P * (m / d) < M * m := Nat.lt_of_mul_lt_mul_left (a := d) (by omega)
  have hhigh : M * m ≤ P * (m / d) + P :=
    Nat.le_of_mul_le_mul_left (by rw [Nat.mul_add, hproduct, Nat.mul_comm d P]; omega) hd
  rw [Int.ediv_eq_iff_of_pos (by exact_mod_cast hP)]
  zify at hlow hhigh
  constructor <;> push_cast <;> linarith

/-- The error of every magnitude below `bound + d`, for the bound of the stop condition: up to the bound `m * delta` is
below `P`, and beyond it the residue `d - 1` does not occur. -/
theorem magic_error_lt (hd : 0 < d) (hbound : bound % d = d - 1) (hstop : bound * delta < P) (hm : m < bound + d) :
    P * (m % d) + m * delta < P * d := by
  have hr := Nat.mod_lt m hd
  rcases le_or_gt m bound with hle | hgt
  · calc P * (m % d) + m * delta < P * (m % d) + P :=
          Nat.add_lt_add_left ((Nat.mul_le_mul_right delta hle).trans_lt hstop) _
      _ = P * (m % d + 1) := rfl
      _ ≤ P * d := Nat.mul_le_mul_left P hr
  · have hne : m % d ≠ d - 1 := fun heq => by
      have hzero := Nat.sub_mod_eq_zero_of_mod_eq (heq.trans hbound.symm)
      rw [Nat.mod_eq_of_lt (by omega)] at hzero
      omega
    have htwice : m ≤ 2 * bound := by
      have := Nat.mod_le bound d
      omega
    have hterm := Nat.mul_le_mul_right delta htwice
    calc P * (m % d) + m * delta < P * (m % d) + 2 * P := by rw [Nat.mul_assoc] at hterm; omega
      _ = P * (m % d + 2) := by ring
      _ ≤ P * d := Nat.mul_le_mul_left P (by omega)

end MagicMultiplier

end Sys2Proof.Machine

/-! ## The unsigned laws (44_laws R188 to R190) -/

namespace Sys2Proof.Machine

/-! The ideal multiplier at the exit of the loop (42_umagic R146, R151). -/

/-- `Mi` of R146, as UMAGIC computes it. -/
def umagicMultiplier (du p : Nat) : Nat := (2 ^ p - 1) / du + 1

section UmagicMultiplier

variable {du p : Nat}

theorem umagicMultiplier_mul (hdu : 0 < du) :
    umagicMultiplier du p * du = 2 ^ p + (du - 1 - (2 ^ p - 1) % du) := by
  have hdiv := Nat.div_add_mod' (2 ^ p - 1) du
  have hr := Nat.mod_lt (2 ^ p - 1) hdu
  have hpos := Nat.one_le_two_pow (n := p)
  rw [umagicMultiplier, Nat.succ_mul]
  omega

theorem two_le_umagicMultiplier (hlow : 2 ≤ du) (hhigh : du < 2 ^ 32) (hp : 32 ≤ p) : 2 ≤ umagicMultiplier du p := by
  have hpow : 2 ^ 32 ≤ 2 ^ p := Nat.pow_le_pow_right (by norm_num) hp
  have : 0 < (2 ^ p - 1) / du := Nat.div_pos (by omega) (by omega)
  rw [umagicMultiplier]
  omega

/-- `Mi` has 33 bits: at the last exponent that does not stop, `2^p <= nc * delta < 2^32 * du`. -/
theorem umagicMultiplier_lt (hlow : 2 ≤ du) (hhigh : du < 2 ^ 32) (hlast : IsLeastFrom 32 (umagicStopsAt du) p) :
    umagicMultiplier du p < 2 ^ 33 := by
  obtain ⟨hge, _, hleast⟩ := hlast
  have hlt : 2 ^ p - 1 < (2 ^ 33 - 1) * du := by
    rcases Nat.lt_or_eq_of_le hge with hgt | rfl
    · obtain ⟨q, rfl⟩ : ∃ q, p = q + 1 := ⟨p - 1, by omega⟩
      have hgo := hleast q (by omega) (by omega)
      rw [umagicStopsAt, Nat.not_lt] at hgo
      have hb := (umagicBound_range hlow hhigh).2
      have := Nat.mul_le_mul hb.le (show du - 1 - (2 ^ q - 1) % du ≤ du - 1 by omega)
      rw [pow_succ]
      omega
    · omega
  have := (Nat.div_lt_iff_lt_mul (by omega)).2 hlt
  rw [umagicMultiplier]
  omega

/-- The shift is 0 for multipliers below `2^32` alone (R190). -/
theorem umagicMultiplier_32_lt (hlow : 2 ≤ du) : umagicMultiplier du 32 < 2 ^ 32 := by
  have := Nat.div_le_div_left (a := 2 ^ 32 - 1) hlow (by norm_num)
  rw [umagicMultiplier]
  omega

/-- The shift is 32 for multipliers from `2^32` on alone (R190). -/
theorem le_umagicMultiplier_64 (hlow : 2 ≤ du) (hhigh : du < 2 ^ 32) : 2 ^ 32 ≤ umagicMultiplier du 64 := by
  have : 2 ^ 32 ≤ (2 ^ 64 - 1) / du := by
    rw [Nat.le_div_iff_mul_le (by omega)]
    omega
  rw [umagicMultiplier]
  omega

/-- The stop condition makes the multiplier divide every word (R189). -/
theorem umagicMultiplier_floor {n : Nat} (hlow : 2 ≤ du) (hhigh : du < 2 ^ 32) (hstop : umagicStopsAt du p)
    (hn : n < 2 ^ 32) : umagicMultiplier du p * n / 2 ^ p = n / du := by
  have hrange : n < umagicBound du + du := by
    have hsub := umagicBound_eq_sub_mod hhigh
    have := Nat.mod_lt (2 ^ 32) (show 0 < du by omega)
    omega
  exact magic_floor (by omega) (umagicMultiplier_mul (by omega))
    (magic_error_lt (by omega) (umagicBound_mod hlow hhigh) hstop hrange)

end UmagicMultiplier

/-! The response as a true multiplier and a shift. -/

/-- What a consumer reads off the answer of UMAGIC that stopped at `p`. -/
structure UnsignedMagic (du p : Nat) (r : Response) : Prop where
  stops : IsLeastFrom 32 (umagicStopsAt du) p
  p_high : p ≤ 64
  status : r.status = .ok
  shift : r.shift.toNat = p - 32
  add : r.add = true ↔ 2 ^ 32 ≤ umagicMultiplier du p
  multiplier : unsignedTrueMultiplier r.value r.add = umagicMultiplier du p

/-- The word and the add indicator hold a multiplier of 33 bits. -/
theorem unsignedTrueMultiplier_ofNat {M : Nat} (h : M < 2 ^ 33) :
    unsignedTrueMultiplier (BitVec.ofNat 32 M) (decide (2 ^ 32 ≤ M)) = M := by
  rw [unsignedTrueMultiplier, BitVec.toNat_ofNat]
  rcases Nat.lt_or_ge M (2 ^ 32) with hlt | hge
  · rw [decide_eq_false hlt.not_ge, Bool.toNat_false]
    omega
  · rw [decide_eq_true hge, Bool.toNat_true]
    omega

theorem unsignedFold_range {a : OperandWord} (hdom : UmagicDomain a) :
    2 ≤ (unsignedFold a.toInt).toNat ∧ (unsignedFold a.toInt).toNat < 2 ^ 32 := by
  have hlow := hdom.2
  obtain ⟨_, _, _, _, _, hhigh⟩ := foldsReadTheEffectiveDivisor a hdom.1
  omega

theorem umagic_reaches_unsignedMagic {a : OperandWord} (b : OperandWord) {s : State} (hp : s.phase = .idle)
    (hdom : UmagicDomain a) :
    ∃ p k u, Reaches (.umagic a b) s k u ∧ UnsignedMagic (unsignedFold a.toInt).toNat p (unpackResponse u.rsp) := by
  obtain ⟨p, u, r, hlast, hle, rfl, _, hreach, hrsp, _⟩ := umagicAnswersTheClosedForm a b s hp hdom
  obtain ⟨hlow, hhigh⟩ := unsignedFold_range hdom
  refine ⟨p, _, u, hreach, ?_⟩
  rw [hrsp, unpackResponse_packResponse]
  refine ⟨hlast, hle, rfl, ?_, decide_eq_true_iff, unsignedTrueMultiplier_ofNat (umagicMultiplier_lt hlow hhigh hlast)⟩
  rw [← shiftField_eq_ofNat hlast.1, toNat_shiftField hlast.1 hle]

/-! The laws, of such a response. -/

section UnsignedMagic

variable {du p : Nat} {r : Response}

theorem UnsignedMagic.quotient {n : Nat} (h : UnsignedMagic du p r) (hlow : 2 ≤ du) (hhigh : du < 2 ^ 32)
    (hn : n < 2 ^ 32) : unsignedLawQuotient r.value r.add r.shift.toNat n = n / du := by
  obtain ⟨hge, hstop, _⟩ := h.stops
  rw [unsignedLawQuotient, h.multiplier, h.shift, Nat.add_sub_of_le hge]
  exact umagicMultiplier_floor hlow hhigh hstop hn

/-- Add never comes with shift 0, and shift 32 never without add (R190). -/
theorem UnsignedMagic.shift_range (h : UnsignedMagic du p r) (hlow : 2 ≤ du) (hhigh : du < 2 ^ 32) :
    (r.add = true → 1 ≤ r.shift.toNat) ∧ (r.add = false → r.shift.toNat ≤ 31) := by
  have hge := h.stops.1
  have hle := h.p_high
  rw [h.shift, ← Bool.not_eq_true, h.add]
  constructor
  · intro hadd
    have : p ≠ 32 := by
      rintro rfl
      exact (umagicMultiplier_32_lt hlow).not_ge hadd
    omega
  · intro hadd
    have : p ≠ 64 := by
      rintro rfl
      exact hadd (le_umagicMultiplier_64 hlow hhigh)
    omega

end UnsignedMagic

/-- The high part of an unsigned product is at most a factor, so it fits a word (00_scope R11). -/
theorem mul_div_two_pow_32_le (x y : Word) : x.toNat * y.toNat / 2 ^ 32 ≤ y.toNat :=
  Nat.div_le_of_le_mul (Nat.mul_le_mul_right _ x.isLt.le)

theorem toNat_mulhu (x y : Word) : (mulhu x y).toNat = x.toNat * y.toNat / 2 ^ 32 := by
  rw [mulhu, BitVec.toNat_ofNat, Nat.mod_eq_of_lt ((mul_div_two_pow_32_le x y).trans_lt y.isLt)]

theorem toNat_mulhu_le (x y : Word) : (mulhu x y).toNat ≤ y.toNat := by
  rw [toNat_mulhu]
  exact mul_div_two_pow_32_le x y

/-- The high part of the product with the true multiplier: with add, the dividend once more (R188). -/
theorem unsignedTrueMultiplier_mul_div (value : Word) (add : Bool) (n : Word) :
    unsignedTrueMultiplier value add * n.toNat / 2 ^ 32 = (mulhu value n).toNat + add.toNat * n.toNat := by
  rw [toNat_mulhu, unsignedTrueMultiplier, Nat.add_mul, Nat.mul_assoc, Nat.add_mul_div_left _ _ (by norm_num)]

/-- Settles O36: the law at the exponent where the loop stopped, with the range of the multiplier. -/
theorem unsignedDivisionLaw : Obligations.UnsignedDivisionLaw := by
  intro a b s hp hdom du
  obtain ⟨hlow, hhigh⟩ : 2 ≤ du ∧ du < 2 ^ 32 := unsignedFold_range hdom
  obtain ⟨p, k, u, hreach, hmagic⟩ := umagic_reaches_unsignedMagic b hp hdom
  refine ⟨k, u, hreach, hmagic.status, ?_, ?_, fun n hn => ⟨hmagic.quotient hlow hhigh (by omega), fun hadd => ?_⟩⟩
  · exact hmagic.multiplier ▸ two_le_umagicMultiplier hlow hhigh hmagic.stops.1
  · exact hmagic.multiplier ▸ umagicMultiplier_lt hlow hhigh hmagic.stops
  · have hword := unsignedTrueMultiplier_mul_div (unpackResponse u.rsp).value (unpackResponse u.rsp).add
      (BitVec.ofNat 32 n)
    rw [hadd, Bool.toNat_true, Nat.one_mul, BitVec.toNat_ofNat, Nat.mod_eq_of_lt (show n < 2 ^ 32 by omega)] at hword
    rw [hadd, hword]

/-- The average of two words without a 33-bit sum (R190). -/
theorem toNat_average {h n : Word} (hle : h.toNat ≤ n.toNat) :
    ((n - h) >>> (1 : Nat) + h).toNat = (h.toNat + n.toNat) / 2 := by
  have := n.isLt
  rw [BitVec.toNat_add, BitVec.toNat_ushiftRight, BitVec.toNat_sub_of_le hle, Nat.shiftRight_eq_div_pow]
  omega

/-- The consumer's word sequence computes the law's quotient. -/
theorem toNat_unsignedSequence {value : Word} {add : Bool} {shift : Nat} (hshift : add = true → 1 ≤ shift) (n : Word) :
    (unsignedSequence value add shift n).toNat = unsignedLawQuotient value add shift n.toNat := by
  have hhigh := unsignedTrueMultiplier_mul_div value add n
  rw [unsignedLawQuotient, pow_add, ← Nat.div_div_eq_div_mul, hhigh]
  cases add with
  | false => simp [unsignedSequence, Nat.shiftRight_eq_div_pow]
  | true =>
    obtain ⟨k, rfl⟩ := Nat.exists_eq_add_of_le (hshift rfl)
    rw [unsignedSequence, if_pos rfl, BitVec.toNat_ushiftRight, toNat_average (toNat_mulhu_le value n),
      Nat.shiftRight_eq_div_pow, Nat.div_div_eq_div_mul, Nat.add_sub_cancel_left, Bool.toNat_true, Nat.one_mul, pow_add,
      pow_one]

/-- Settles O37: the sequence computes the law's quotient. -/
theorem unsignedSequenceDivides : Obligations.UnsignedSequenceDivides := by
  intro a b s hp hdom du
  obtain ⟨hlow, hhigh⟩ : 2 ≤ du ∧ du < 2 ^ 32 := unsignedFold_range hdom
  obtain ⟨p, k, u, hreach, hmagic⟩ := umagic_reaches_unsignedMagic b hp hdom
  obtain ⟨hadd, hnoadd⟩ := hmagic.shift_range hlow hhigh
  exact ⟨k, u, hreach, hadd, hnoadd, fun n =>
    (toNat_unsignedSequence hadd n).trans (hmagic.quotient hlow hhigh n.isLt)⟩

end Sys2Proof.Machine

/-! ## The signed laws (44_laws R186, R187, R190) -/

namespace Sys2Proof.Machine

/-! The multiplier at the exit of the loop (41_smagic R117, R120). -/

/-- `M` of R117, as SMAGIC computes it. -/
def smagicMultiplier (ad p : Nat) : Nat := 2 ^ p / ad + 1

section SmagicMultiplier

variable {neg : Bool} {ad p m : Nat}

theorem smagicMultiplier_mul (had : 0 < ad) : smagicMultiplier ad p * ad = 2 ^ p + (ad - 2 ^ p % ad) := by
  have hdiv := Nat.div_add_mod' (2 ^ p) ad
  have hr := Nat.mod_lt (2 ^ p) had
  rw [smagicMultiplier, Nat.succ_mul]
  omega

theorem three_le_smagicMultiplier (hlow : 2 ≤ ad) (hhigh : ad ≤ 2 ^ 31) (hp : 32 ≤ p) : 3 ≤ smagicMultiplier ad p := by
  have hpow : 2 ^ 32 ≤ 2 ^ p := Nat.pow_le_pow_right (by norm_num) hp
  have : 2 ≤ 2 ^ p / ad := by
    rw [Nat.le_div_iff_mul_le (by omega)]
    omega
  rw [smagicMultiplier]
  omega

/-- `anc` lies within one `ad` of the limit `t` of R113. -/
theorem le_smagicBound_add (hlow : 2 ≤ ad) (hhigh : ad + 1 ≤ 2 ^ 31 + neg.toNat) :
    2 ^ 31 + neg.toNat ≤ smagicBound neg ad + ad := by
  have hr := Nat.mod_lt (2 ^ 31 + neg.toNat) (show 0 < ad by omega)
  simp only [smagicBound]
  omega

/-- The magnitudes below `t` keep the error strictly in bounds (R187 (a)). -/
theorem smagic_error_lt (hlow : 2 ≤ ad) (hhigh : ad + 1 ≤ 2 ^ 31 + neg.toNat) (hstop : smagicStopsAt neg ad p)
    (hm : m < 2 ^ 31 + neg.toNat) : 2 ^ p * (m % ad) + m * (ad - 2 ^ p % ad) < 2 ^ p * ad :=
  magic_error_lt (by omega) (smagicBound_mod hlow hhigh) hstop (hm.trans_le (le_smagicBound_add hlow hhigh))

/-- A positive divisor of `2^31 + 1` stops at `p = 32`, with `delta = 2` (R187 (d)). -/
theorem smagicStopsAt_32_of_mod (hlow : 2 ≤ ad) (hmod : 2 ^ 31 % ad = ad - 1) :
    2 ^ 32 % ad = ad - 2 ∧ smagicStopsAt false ad 32 := by
  have hrem : 2 ^ 32 % ad = ad - 2 := by
    rw [show 2 ^ 32 = 2 ^ 31 + 2 ^ 31 by norm_num, Nat.add_mod, hmod, show ad - 1 + (ad - 1) = ad + (ad - 2) by omega,
      Nat.add_mod_left, Nat.mod_eq_of_lt (by omega)]
  refine ⟨hrem, ?_⟩
  rw [smagicStopsAt, hrem, smagicBound, Bool.toNat_false, Nat.add_zero, hmod, show ad - (ad - 2) = 2 by omega]
  omega

/-- On the side of the negative products the magnitude `2^31` of a positive divisor is one beyond: there the error may
be `2^p * ad` (R187 (b), (d)). -/
theorem smagic_error_le (hlow : 2 ≤ ad) (hhigh : ad + 1 ≤ 2 ^ 31 + neg.toNat)
    (hlast : IsLeastFrom 32 (smagicStopsAt neg ad) p) (hm : m ≤ 2 ^ 31) :
    2 ^ p * (m % ad) + m * (ad - 2 ^ p % ad) ≤ 2 ^ p * ad := by
  obtain ⟨hge, hstop, hleast⟩ := hlast
  by_cases hlt : m < smagicBound neg ad + ad
  · exact (magic_error_lt (by omega) (smagicBound_mod hlow hhigh) hstop hlt).le
  · have hlimit := le_smagicBound_add hlow hhigh
    obtain rfl : neg = false := by
      cases neg with
      | false => rfl
      | true =>
        rw [Bool.toNat_true] at hlimit
        omega
    rw [Bool.toNat_false] at hlimit hhigh
    obtain rfl : m = 2 ^ 31 := by omega
    have hmod : 2 ^ 31 % ad = ad - 1 := by
      have hr := Nat.mod_lt (2 ^ 31) (show 0 < ad by omega)
      rw [smagicBound, Bool.toNat_false, Nat.add_zero] at hlt
      omega
    obtain ⟨hrem, hstop32⟩ := smagicStopsAt_32_of_mod hlow hmod
    obtain rfl : p = 32 := by
      by_contra hne
      exact hleast 32 (le_refl 32) (by omega) hstop32
    rw [hmod, hrem]
    omega

end SmagicMultiplier

/-! The truncated quotient, and the product with the sign of the divisor, by the signs. -/

section Signs

variable {d n : Int}

theorem sign_mul_and_tdiv_of_nonneg (hd : d ≠ 0) (h : 0 ≤ d * n) :
    d.sign * n = n.natAbs ∧ n.tdiv d = (n.natAbs / d.natAbs : Nat) := by
  rcases lt_or_gt_of_ne hd with hneg | hpos
  · obtain ⟨m, rfl⟩ := Int.exists_eq_neg_ofNat (nonpos_of_mul_nonneg_right h hneg)
    obtain ⟨k, rfl⟩ := Int.exists_eq_neg_ofNat hneg.le
    refine ⟨by rw [Int.sign_eq_neg_one_of_neg hneg]; simp, ?_⟩
    rw [Int.neg_tdiv_neg, Int.natAbs_neg, Int.natAbs_neg]
    rfl
  · obtain ⟨m, rfl⟩ := Int.eq_ofNat_of_zero_le (nonneg_of_mul_nonneg_right h hpos)
    obtain ⟨k, rfl⟩ := Int.eq_ofNat_of_zero_le hpos.le
    exact ⟨by rw [Int.sign_eq_one_of_pos hpos]; simp, rfl⟩

theorem sign_mul_and_tdiv_of_neg (h : d * n < 0) :
    d.sign * n = -(n.natAbs : Int) ∧ n.tdiv d = -((n.natAbs / d.natAbs : Nat) : Int) := by
  have hd : d ≠ 0 := left_ne_zero_of_mul h.ne
  obtain ⟨hsign, hdiv⟩ := sign_mul_and_tdiv_of_nonneg (n := -n) hd (by rw [mul_neg]; omega)
  rw [mul_neg, Int.natAbs_neg] at hsign
  rw [Int.neg_tdiv, Int.natAbs_neg] at hdiv
  omega

end Signs

/-! The response as a true multiplier and a shift. -/

/-- What a consumer reads off the answer of SMAGIC that stopped at `p`. -/
structure SignedMagic (d : Int) (p : Nat) (r : Response) : Prop where
  ad_low : 2 ≤ d.natAbs
  ad_high : d.natAbs + 1 ≤ 2 ^ 31 + (decide (d < 0)).toNat
  stops : IsLeastFrom 32 (smagicStopsAt (decide (d < 0)) d.natAbs) p
  status : r.status = .ok
  shift : r.shift.toNat = p - 32
  value_ne : r.value ≠ 0#32
  multiplier : signedTrueMultiplier d r.value = d.sign * smagicMultiplier d.natAbs p
  multiplier_lt : smagicMultiplier d.natAbs p < 2 ^ 32

/-- The word holds a multiplier of 32 bits, complemented for a negative divisor (41_smagic R117). -/
theorem signedTrueMultiplier_smagicValue {d : Int} {q2 : Nat} (hd : d ≠ 0) (h : q2 + 1 < 2 ^ 32) :
    signedTrueMultiplier d (smagicValue (decide (d < 0)) q2) = d.sign * (q2 + 1 : Nat) := by
  rw [signedTrueMultiplier, smagicValue_eq_of_lt h]
  rcases lt_or_gt_of_ne hd with hneg | hpos
  · rw [decide_eq_true hneg, if_pos rfl, if_neg hneg.not_gt, Int.sign_eq_neg_one_of_neg hneg, BitVec.toNat_ofNat]
    omega
  · rw [decide_eq_false hpos.not_gt, if_neg Bool.false_ne_true, if_pos hpos, Int.sign_eq_one_of_pos hpos,
      BitVec.toNat_ofNat]
    omega

theorem smagic_reaches_signedMagic {a : OperandWord} (b : OperandWord) {s : State} (hp : s.phase = .idle)
    (hdom : SmagicDomain a) :
    ∃ p k u, Reaches (.smagic a b) s k u ∧ SignedMagic (signedFold a.toInt) p (unpackResponse u.rsp) := by
  have he := divisorError_smagic_eq_none hdom
  obtain ⟨hlow, hhigh⟩ := smagicDomainError_eq_none (domainError_eq_none he)
  obtain ⟨p, u, _, hle, hlast, hreach, _, hrsp⟩ := smagic_answers b hp he
  rw [toInt_effectiveDivisor hdom.1] at hlow hhigh hlast hrsp
  have hM := smagic_multiplier_lt hlow hhigh hlast
  refine ⟨p, _, u, hreach, ?_⟩
  rw [hrsp, unpackResponse_packResponse]
  exact ⟨hlow, hhigh, hlast, rfl, toNat_shiftField hlast.1 (by omega), smagicValue_ne_zero _ hM,
    signedTrueMultiplier_smagicValue (by omega) hM, hM⟩

/-! The laws, of such a response. -/

section SignedMagic

variable {d n : Int} {p : Nat} {r : Response}

/-- The floor of a product that is not negative is the quotient (R187 (a), (c)). -/
theorem SignedMagic.floor_of_nonneg (h : SignedMagic d p r) (hlow : -2 ^ 31 ≤ n) (hhigh : n ≤ 2 ^ 31 - 1)
    (hsign : 0 ≤ d * n) :
    signedTrueMultiplier d r.value * n / 2 ^ (32 + r.shift.toNat) = n.tdiv d ∧ 0 ≤ n.tdiv d := by
  have had := h.ad_low
  obtain ⟨hproduct, hdiv⟩ := sign_mul_and_tdiv_of_nonneg (show d ≠ 0 by omega) hsign
  have hm : n.natAbs < 2 ^ 31 + (decide (d < 0)).toNat := by
    by_cases hneg : d < 0
    · rw [decide_eq_true hneg, Bool.toNat_true]
      omega
    · have := nonneg_of_mul_nonneg_right hsign (show 0 < d by omega)
      omega
  have hfloor := magic_floor (by omega) (smagicMultiplier_mul (by omega))
    (smagic_error_lt h.ad_low h.ad_high h.stops.2.1 hm)
  rw [h.multiplier, h.shift, Nat.add_sub_of_le h.stops.1, mul_right_comm, hproduct, hdiv, mul_comm, ← hfloor]
  exact ⟨by push_cast; rfl, Int.natCast_nonneg _⟩

/-- The floor of a negative product is one below the quotient (R187 (b), (d)). -/
theorem SignedMagic.floor_of_neg (h : SignedMagic d p r) (hlow : -2 ^ 31 ≤ n) (hhigh : n ≤ 2 ^ 31 - 1)
    (hsign : d * n < 0) :
    signedTrueMultiplier d r.value * n / 2 ^ (32 + r.shift.toNat) = n.tdiv d - 1 ∧ n.tdiv d ≤ 0 := by
  have had := h.ad_low
  obtain ⟨hproduct, hdiv⟩ := sign_mul_and_tdiv_of_neg hsign
  have hn : n ≠ 0 := right_ne_zero_of_mul hsign.ne
  have hr := Nat.mod_lt (2 ^ p) (show 0 < d.natAbs by omega)
  have hfloor := magic_floor_neg (by omega) (smagicMultiplier_mul (by omega)) (by omega) (Int.natAbs_pos.2 hn)
    (smagic_error_le h.ad_low h.ad_high h.stops (show n.natAbs ≤ 2 ^ 31 by omega))
  rw [h.multiplier, h.shift, Nat.add_sub_of_le h.stops.1, mul_right_comm, hproduct, hdiv, neg_mul,
    mul_comm (n.natAbs : Int)]
  rw [Nat.cast_mul, Nat.cast_pow, Nat.cast_ofNat] at hfloor
  rw [hfloor]
  exact ⟨by ring, Int.neg_nonpos_of_nonneg (Int.natCast_nonneg _)⟩

/-- The correction adds 1 exactly to the negative products. -/
theorem SignedMagic.quotient (h : SignedMagic d p r) (hlow : -2 ^ 31 ≤ n) (hhigh : n ≤ 2 ^ 31 - 1) :
    signedLawQuotient d r.value r.shift.toNat n = n.tdiv d ∧
      (signedTrueMultiplier d r.value * n / 2 ^ (32 + r.shift.toNat) < 0 ↔ d * n < 0) := by
  rw [signedLawQuotient]
  rcases lt_or_ge (d * n) 0 with hsign | hsign
  · obtain ⟨hfloor, hdiv⟩ := h.floor_of_neg hlow hhigh hsign
    rw [hfloor, if_pos (by omega)]
    exact ⟨by omega, iff_of_true (by omega) hsign⟩
  · obtain ⟨hfloor, hdiv⟩ := h.floor_of_nonneg hlow hhigh hsign
    rw [hfloor, if_neg hdiv.not_gt]
    exact ⟨add_zero _, iff_of_false hdiv.not_gt hsign.not_gt⟩

/-- The range of the true multiplier (R186). -/
theorem SignedMagic.multiplier_range (h : SignedMagic d p r) :
    (0 < d → 3 ≤ signedTrueMultiplier d r.value ∧ signedTrueMultiplier d r.value ≤ 2 ^ 32 - 1) ∧
      (d < 0 → -(2 ^ 32 - 1) ≤ signedTrueMultiplier d r.value ∧ signedTrueMultiplier d r.value ≤ -3) := by
  have hlt := h.multiplier_lt
  have hneg := Bool.toNat_le (decide (d < 0))
  have hge := three_le_smagicMultiplier h.ad_low (by have := h.ad_high; omega) h.stops.1
  rw [h.multiplier]
  constructor <;> intro hd
  · rw [Int.sign_eq_one_of_pos hd]
    omega
  · rw [Int.sign_eq_neg_one_of_neg hd]
    omega

end SignedMagic

/-- Settles O29: the law at the exponent where the loop stopped, by the sign of the product. -/
theorem signedDivisionLaw : Obligations.SignedDivisionLaw := by
  intro a b s hp hdom d
  obtain ⟨p, k, u, hreach, hmagic⟩ := smagic_reaches_signedMagic b hp hdom
  obtain ⟨hpos, hneg⟩ := hmagic.multiplier_range
  refine ⟨k, u, hreach, hmagic.status, hpos, hneg, fun n hlow hhigh => ?_⟩
  obtain ⟨hquotient, hcorrection⟩ := hmagic.quotient hlow hhigh
  refine ⟨hquotient, hcorrection.trans (mul_neg_iff.trans (or_congr and_comm and_comm)), ?_⟩
  rintro rfl
  rw [mul_zero, Int.zero_ediv]

/-! The sequence in words (R190). -/

/-- Moving the multiplier by `c * 2^32` moves the high part by `c` times the dividend. -/
theorem ofInt_high_add (x c : Int) (n : Word) :
    BitVec.ofInt 32 ((x + 2 ^ 32 * c) * n.toInt / 2 ^ 32) =
      BitVec.ofInt 32 (x * n.toInt / 2 ^ 32) + BitVec.ofInt 32 c * n := by
  rw [add_mul, mul_assoc, Int.add_mul_ediv_left _ _ (by norm_num), BitVec.ofInt_add, BitVec.ofInt_mul,
    BitVec.ofInt_toInt]

/-- The word after the two conditional lines of R190. -/
def signedHigh (d : Int) (value n : Word) : Word :=
  let added := if 0 < d ∧ value.toInt < 0 then mulhs value n + n else mulhs value n
  if d < 0 ∧ 0 < value.toInt then added - n else added

theorem signedSequence_eq (d : Int) (value : Word) (shift : Nat) (n : Word) :
    signedSequence d value shift n =
      (signedHigh d value n).sshiftRight shift + (signedHigh d value n).sshiftRight shift >>> (31 : Nat) := rfl

/-- They turn the product with the signed word into the one with the true multiplier. -/
theorem signedHigh_eq {d : Int} {value : Word} (hd : d ≠ 0) (hvalue : value ≠ 0#32) (n : Word) :
    signedHigh d value n = BitVec.ofInt 32 (signedTrueMultiplier d value * n.toInt / 2 ^ 32) := by
  have hne : value.toNat ≠ 0 := fun h => hvalue (BitVec.eq_of_toNat_eq h)
  have hlt := value.isLt
  have hread := BitVec.toInt_eq_toNat_cond value
  have hmove (c : Int) (hc : signedTrueMultiplier d value = value.toInt + 2 ^ 32 * c) :
      mulhs value n + BitVec.ofInt 32 c * n =
        BitVec.ofInt 32 (signedTrueMultiplier d value * n.toInt / 2 ^ 32) := by
    rw [hc, ofInt_high_add, mulhs]
  rw [signedHigh]
  rcases lt_or_gt_of_ne hd with hneg | hpos
  · have hMt : signedTrueMultiplier d value = (value.toNat : Int) - 2 ^ 32 := if_neg hneg.not_gt
    by_cases hv : 0 < value.toInt
    · have hminus : BitVec.ofInt 32 (-1) * n = -n := by
        rw [BitVec.ofInt_neg, BitVec.neg_mul]
        exact congrArg Neg.neg (BitVec.one_mul n)
      rw [← hmove (-1) (by omega), hminus]
      simp [hneg, hneg.not_gt, hv, BitVec.sub_eq_add_neg]
    · rw [← hmove 0 (by omega)]
      simp [hneg.not_gt, hv]
  · have hMt : signedTrueMultiplier d value = value.toNat := if_pos hpos
    by_cases hv : value.toInt < 0
    · rw [← hmove 1 (by omega)]
      simp [hpos, hpos.not_gt, hv]
    · rw [← hmove 0 (by omega)]
      simp [hpos.not_gt, hv]

/-- Adding the sign bit adds 1 to the negative words. -/
theorem toInt_add_signBit (q : Word) : (q + q >>> (31 : Nat)).toInt = q.toInt + if q.toInt < 0 then 1 else 0 := by
  have hlt := q.isLt
  rw [BitVec.toInt_eq_toNat_cond, BitVec.toInt_eq_toNat_cond, BitVec.toNat_add, BitVec.toNat_ushiftRight,
    Nat.shiftRight_eq_div_pow]
  split_ifs <;> omega

/-- The high part of a product with a multiplier of 32 bits and a sign fits a word. -/
theorem high_range {Mt : Int} (h : Mt.natAbs < 2 ^ 32) (n : Word) :
    -2 ^ 31 ≤ Mt * n.toInt / 2 ^ 32 ∧ Mt * n.toInt / 2 ^ 32 < 2 ^ 31 := by
  have hlow := n.le_toInt
  have hhigh := n.toInt_lt
  have hproduct : (Mt * n.toInt).natAbs ≤ (2 ^ 32 - 1) * 2 ^ 31 := by
    rw [Int.natAbs_mul]
    exact Nat.mul_le_mul (by omega) (by omega)
  omega

/-- The consumer's word sequence computes the law's quotient. -/
theorem toInt_signedSequence {d : Int} {value : Word} (hd : d ≠ 0) (hvalue : value ≠ 0#32)
    (hMt : (signedTrueMultiplier d value).natAbs < 2 ^ 32) (shift : Nat) (n : Word) :
    (signedSequence d value shift n).toInt = signedLawQuotient d value shift n.toInt := by
  obtain ⟨hlow, hhigh⟩ := high_range hMt n
  have hword := BitVec.toInt_ofInt_eq_self (w := 32) (by norm_num) hlow hhigh
  rw [signedSequence_eq, toInt_add_signBit, BitVec.toInt_sshiftRight, signedHigh_eq hd hvalue, hword,
    Int.shiftRight_eq_div_pow, signedLawQuotient, pow_add, ← Int.ediv_ediv_of_nonneg (by norm_num)]
  rfl

theorem SignedMagic.natAbs_multiplier_lt {d : Int} {p : Nat} {r : Response} (h : SignedMagic d p r) :
    (signedTrueMultiplier d r.value).natAbs < 2 ^ 32 := by
  have had := h.ad_low
  rw [h.multiplier, Int.natAbs_mul, Int.natAbs_sign_of_ne_zero (by omega), Nat.one_mul]
  exact h.multiplier_lt

/-- Settles O30: the sequence computes the law's quotient. -/
theorem signedSequenceDivides : Obligations.SignedSequenceDivides := by
  intro a b s hp hdom d
  obtain ⟨p, k, u, hreach, hmagic⟩ := smagic_reaches_signedMagic b hp hdom
  have had := hmagic.ad_low
  refine ⟨k, u, hreach, fun n => ?_⟩
  have hlow := n.le_toInt
  have hhigh := n.toInt_lt
  obtain ⟨hquotient, _⟩ := hmagic.quotient (n := n.toInt) (by omega) (by omega)
  exact (toInt_signedSequence (by omega) hmagic.value_ne hmagic.natAbs_multiplier_lt _ n).trans hquotient

end Sys2Proof.Machine

/-! ## Exceptions (60_exceptions)

The responses an iteration can give are the three of R117, R146 and R173; each is an `okResponse`. -/

namespace Sys2Proof.Machine

@[simp] theorem smagicResponse_status (neg : Bool) (p q2 : Nat) : (smagicResponse neg p q2).status = .ok := rfl
@[simp] theorem umagicResponse_status (af : Bool) (p q2 : Nat) : (umagicResponse af p q2).status = .ok := rfl
@[simp] theorem valueResponse_status (value : Word) : (valueResponse value).status = .ok := rfl

/-- ITERATE writes working registers, and either nothing else or a response of status OK: `iterate_next_cases`, and what
the response can be. -/
theorem iterate_next_ok_cases {s t : State} (h : iterate s = .next t) :
    (∃ w, t = s.withWorking w) ∨ ∃ w r, r.status = .ok ∧ t = respond r (s.withWorking w) := by
  rcases iterate_cases s with ⟨_, e⟩ | ⟨_, e⟩ | ⟨_, e⟩ | ⟨_, e⟩ <;> rw [e] at h <;> cases h
  case inr.inl.refl =>
    rcases iterateSmagic_cases s with ⟨_, e⟩ | ⟨_, e⟩
    · exact .inl ⟨_, e⟩
    · exact .inr ⟨_, _, smagicResponse_status .., e⟩
  case inr.inr.inl.refl =>
    rcases iterateUmagic_cases s with ⟨_, e⟩ | ⟨_, e⟩
    · exact .inl ⟨_, e⟩
    · exact .inr ⟨_, _, umagicResponse_status .., e⟩
  case inr.inr.inr.refl =>
    rcases iterateModinv_cases s with ⟨_, e⟩ | ⟨_, e⟩
    · exact .inr ⟨s.w, _, valueResponse_status .., e⟩
    · exact .inl ⟨_, e⟩

/-- Settles O20: an iteration that goes on stays in BUSY, and one that responds answers OK. -/
theorem iterationsNeverRaiseErrors : Obligations.IterationsNeverRaiseErrors := by
  intro s t hrst hp hstep ht
  rw [step_busy hrst hp, mapNext_eq_next] at hstep
  obtain ⟨u, hu, rfl⟩ := hstep
  rcases iterate_next_ok_cases hu with ⟨w, rfl⟩ | ⟨w, r, hok, rfl⟩
  · simp [hp] at ht
  · rw [endStep_rsp, respond_rsp, unpackResponse_packResponse]
    exact hok

end Sys2Proof.Machine

/-! ## Reset and hazards (70_reset R236, R237)

A response that the host never takes, and the responses of a caller that does its duties. -/

namespace Sys2Proof.Machine

/-! The pending response (R237). -/

/-- A run whose first step answers a next state goes on from there. -/
theorem core_run_succ_of_next {k : Nat} {s t : State} (h : step s = .next t) : core.run (k + 1) s = core.run k t := by
  simp only [Host.Core.run, core, h]

/-- A step brings up no level that was not driven or planned before it: past the end of the plan a level holds
(log 7). -/
theorem mem_of_mem_advanceLevels {h : HostSide} {l : HostLevels}
    (hl : l ∈ (advanceLevels h).levels :: (advanceLevels h).plan) : l ∈ h.levels :: h.plan := by
  cases hplan : h.plan with
  | nil => simpa [advanceLevels, hplan] using hl
  | cons coming rest => exact List.mem_cons_of_mem _ (by simpa [advanceLevels, hplan] using hl)

/-- A response is pending, and in no step, now or planned, does the host take it or reset. -/
structure UntakenResponse (s : State) : Prop where
  pending : s.phase = .resp
  untaken : ∀ l ∈ s.host.levels :: s.host.plan, l.rst = false ∧ l.rspReady = false

theorem UntakenResponse.step_eq {s : State} (h : UntakenResponse s) : step s = .next (endStep s) := by
  obtain ⟨hrst, hready⟩ := h.untaken _ List.mem_cons_self
  rw [step_resp hrst h.pending, hready, if_neg Bool.false_ne_true]

theorem UntakenResponse.endStep {s : State} (h : UntakenResponse s) : UntakenResponse (endStep s) :=
  ⟨h.pending, fun l hl => h.untaken l (mem_of_mem_advanceLevels hl)⟩

/-- Settles O12: a step from such a state moves the host's levels on and changes nothing else, and the response is
untaken still. -/
theorem untakenResponseBlocksForEver : Obligations.UntakenResponseBlocksForEver := by
  intro s hp hrst hready hplan k
  have huntaken : UntakenResponse s := ⟨hp, List.forall_mem_cons.2 ⟨⟨hrst, hready⟩, hplan⟩⟩
  clear hp hrst hready hplan
  induction k generalizing s with
  | zero => exact ⟨s, rfl, huntaken.pending, rfl, rfl, rfl, rfl⟩
  | succ k ih =>
    obtain ⟨t, hrun, hphase, hrsp, hoffers, hobserved, hissued⟩ := ih (endStep s) huntaken.endStep
    exact ⟨t, (core_run_succ_of_next huntaken.step_eq).trans hrun, hphase, hrsp, by simpa using hoffers,
      by simpa using hobserved, by simpa using hissued⟩

/-! The status of a divisor command's response is decided by the operand check alone (60_exceptions R204). -/

/-- A run of the engine that has an iteration to take ends in a response of status OK. -/
theorem runEngine_status_ok {k : Nat} {s u : State} (hp : s.phase = .busy) (h : runEngine k s = some u) :
    (unpackResponse u.rsp).status = .ok := by
  induction k generalizing s with
  | zero => simp [(runEngine_zero.1 h).1] at hp
  | succ k ih =>
    obtain ⟨_, t, ht, hu⟩ := runEngine_succ.1 h
    rcases iterate_next_ok_cases ht with ⟨w, rfl⟩ | ⟨w, r, hok, rfl⟩
    · exact ih (s := s.withWorking w) hp hu
    · obtain rfl : k = 0 := (eq_zero_iff_of_runEngine hu).2 rfl
      obtain ⟨_, rfl⟩ := runEngine_zero.1 hu
      rw [respond_rsp, unpackResponse_packResponse]
      exact hok

section DivisorStatus

variable {i : Instr} {op : Opcode} {own : Word → Option Status} {load : Word → Working → Working}
  {a : OperandWord} {s u : State} {k : Nat}

theorem Reaches.status_of_error {code : Status}
    (hexec : exec i s = acceptCommand op (startDivisorCommand own load a) s) (hp : s.phase = .idle)
    (he : divisorError own a = some code) (h : Reaches i s k u) : (unpackResponse u.rsp).status = code := by
  have herror : Reaches i s 0 (answeredAtOnce op (errorResponse code) s) :=
    ⟨_, hexec.trans (acceptDivisor_of_error hp he), runEngine_zero.2 ⟨rfl, rfl⟩⟩
  obtain ⟨_, rfl⟩ := h.unique herror
  exact congrArg Response.status (unpackResponse_packResponse (errorResponse code))

theorem Reaches.status_of_valid (hexec : exec i s = acceptCommand op (startDivisorCommand own load a) s)
    (hp : s.phase = .idle) (he : divisorError own a = none) (h : Reaches i s k u) :
    (unpackResponse u.rsp).status = .ok := by
  obtain ⟨t, ht, hu⟩ := h
  rw [hexec, acceptDivisor_of_valid hp he] at ht
  cases ht
  exact runEngine_status_ok rfl hu

end DivisorStatus

/-! The caller's sequence (R236, 30_encoding R82). -/

/-- A divisor the caller accepts is read back from its operand word, in range, and is none of -1, 0 and 1. -/
theorem operandWord_of_callerAccepts {v : Int} (h : callerAccepts v = true) :
    (operandWord (.decimal v)).toInt = v ∧ DivisorRange (operandWord (.decimal v)) ∧ 1 < v.natAbs := by
  obtain ⟨hmagnitude, hlow, hhigh⟩ := of_decide_eq_true h
  rw [Config.divMin] at hlow
  rw [Config.divMax] at hhigh
  have hv : (operandWord (.decimal v)).toInt = v := toInt_operandWord_decimal (decide_eq_true (by omega))
  exact ⟨hv, by rw [DivisorRange, hv]; exact ⟨hlow, hhigh⟩, hmagnitude⟩

/-- The commands of the sequence: SMAGIC, UMAGIC, and MODINV for an odd divisor. -/
theorem mem_callerCommands {v : Int} {i : Instr} (h : callerAccepts v = true) (hi : i ∈ callerCommands v) :
    i = .smagic (operandWord (.decimal v)) 0#64 ∨ i = .umagic (operandWord (.decimal v)) 0#64 ∨
      (i = .modinv (operandWord (.decimal v)) 0#64 ∧ v % 2 = 1) := by
  obtain ⟨hv, _⟩ := operandWord_of_callerAccepts h
  rw [callerCommands, if_pos h, expandLine, hv] at hi
  by_cases hodd : v % 2 = 1
  · rw [if_pos hodd] at hi
    simpa [hodd] using hi
  · rw [if_neg hodd] at hi
    have hpair : i = .smagic (operandWord (.decimal v)) 0#64 ∨ i = .umagic (operandWord (.decimal v)) 0#64 := by
      simpa using hi
    exact hpair.imp_right .inl

/-- Settles O48: the divisor passes the check of each command of its sequence, but for `2^32 - 1`, which SMAGIC reads
as -1. -/
theorem dutifulCallerSeesOneError : Obligations.DutifulCallerSeesOneError := by
  intro v i s k u haccepts hi hp hreach
  obtain ⟨hv, hrange, hmagnitude⟩ := operandWord_of_callerAccepts haccepts
  rcases mem_callerCommands haccepts hi with rfl | rfl | ⟨rfl, hodd⟩
  · by_cases hmax : v = 2 ^ 32 - 1
    · have hdom : ¬ SmagicDomain (operandWord (.decimal v)) := fun hdom => (smagicDomain_iff hrange).1 hdom (by omega)
      have he : divisorError smagicDomainError (operandWord (.decimal v)) = some .errDegenerate := by
        rw [divisorError_smagic hrange, if_neg hdom]
      rw [if_pos ⟨hmax, rfl⟩]
      exact hreach.status_of_error (exec_smagic _ _ s) hp he
    · have hdom : SmagicDomain (operandWord (.decimal v)) := (smagicDomain_iff hrange).2 (by omega)
      rw [if_neg (fun h => hmax h.1)]
      exact hreach.status_of_valid (exec_smagic _ _ s) hp (divisorError_smagic_eq_none hdom)
  · have hdom : UmagicDomain (operandWord (.decimal v)) := (umagicDomain_iff hrange).2 (by omega)
    rw [if_neg (fun h => nomatch h.2)]
    exact hreach.status_of_valid (exec_umagic _ _ s) hp (divisorError_umagic_eq_none hdom)
  · have hdom : ModinvDomain (operandWord (.decimal v)) := ⟨hrange, by rw [hv]; exact hodd⟩
    rw [if_neg (fun h => nomatch h.2)]
    exact hreach.status_of_valid (exec_modinv _ _ s) hp (divisorError_modinv_eq_none hdom)

end Sys2Proof.Machine

/-! ## The host's channels, step by step (10_state R29, R31, R35; 20_memory R54; 70_reset R230)

What each step does to the words on the channel and to the observation, that no state of the invariant stops, and what
an eager host observes. -/

namespace Sys2Proof.Machine

/-- Settles O4: the fields of each word, evaluated. -/
theorem specWordsDecode : Obligations.SpecWordsDecode := ⟨by decide, by decide, by decide, by decide, by decide⟩

/-! The offered word (30_encoding R70). -/

section OfferedWord

variable {h : HostSide} {cw : CommandWord}

theorem offeredWord_eq_some_iff :
    offeredWord h = some cw ↔ h.levels.cmdValid = true ∧ ∃ rest, h.offers = cw :: rest := by
  rw [offeredWord]
  split
  next hv => simp [hv, List.head?_eq_some_iff]
  next hv => simp [hv]

/-- Where `cmd_valid` is on and yet nothing is offered, there is no word left to issue. -/
theorem offers_eq_nil_of_offeredWord_eq_none (ho : offeredWord h = none) (hv : h.levels.cmdValid = true) :
    h.offers = [] := by
  rwa [offeredWord, if_pos hv, List.head?_eq_none_iff] at ho

end OfferedWord

/-! A command outside IDLE (R29, R54), and in IDLE. -/

/-- Outside IDLE a command is held off. -/
theorem exec_held (i : Instr) {s : State} (hp : s.phase ≠ .idle) : exec i s = .next s := by
  cases i <;> exact acceptCommand_held hp

/-- In IDLE a command answers a next state and leaves the host's side alone. -/
theorem exec_idle_next (i : Instr) {s : State} (hp : s.phase = .idle) :
    ∃ t, exec i s = .next t ∧ SameOutside s t := by
  rcases exec_idle_cases i hp with ⟨r, e⟩ | ⟨load, e⟩ <;> exact ⟨_, e, exec_sameOutside hp e⟩

/-- Settles O8: of the steps, only an ACCEPT takes a word off the channel; with `cmd_valid` on and no word left, the
tail of the words is the words. -/
theorem commandsAreHeldOffOutsideIdle : Obligations.CommandsAreHeldOffOutsideIdle := by
  refine ⟨fun i s hp => exec_held i hp, fun s t hstep => ?_⟩
  rcases step_cases hstep with ⟨hr, rfl⟩ | ⟨hr, hp, cw, u, ho, hu, rfl⟩ | ⟨hr, hp, ho, rfl⟩ | ⟨_, hp, u, hu, rfl⟩ |
    ⟨_, hp, _, rfl⟩ | ⟨_, hp, _, rfl⟩
  case inl => simp [hr]
  case inr.inl =>
    obtain ⟨hv, _⟩ := offeredWord_eq_some_iff.1 ho
    obtain ⟨hhost, _⟩ := exec_sameOutside hp hu
    simp [hr, hp, hv, hhost]
  case inr.inr.inl =>
    by_cases hv : s.host.levels.cmdValid = true
    · simp [offers_eq_nil_of_offeredWord_eq_none ho hv]
    · simp [hv]
  case inr.inr.inr.inl =>
    obtain ⟨hhost, _⟩ := iterate_sameOutside hu
    simp [hp, hhost]
  case inr.inr.inr.inr.inl => simp [hp]
  case inr.inr.inr.inr.inr => simp [hp]

/-- Settles O6: the step is ACCEPT of the decoded command, which answers a next state; the channel's bookkeeping leaves
MAGICGEN as the command left it. -/
theorem stepRunsTheOfferedCommand : Obligations.StepRunsTheOfferedCommand := by
  rintro s cw rest i hr hp hv hoffers rfl _
  have hstep := step_idle_offered hr hp (offeredWord_eq_some_iff.2 ⟨hv, rest, hoffers⟩)
  obtain ⟨t, ht, hhost, _⟩ := exec_idle_next (decode cw) hp
  exact ⟨hstep, t, endAccept cw t, ht, by rw [hstep, ht, mapNext_next], rfl, rfl, rfl, rfl, by simp [hhost, hoffers],
    by simp, by simp [hhost]⟩

/-! TAKE and RESET (R31, R230). -/

theorem receiveResponse_of_issued {h : HostSide} {cw : CommandWord} (rw : ResponseWord) (hi : h.issued = some cw) :
    receiveResponse rw h = { h with issued := none, observed := h.observed ++ [(cw, rw)] } := by
  simp only [receiveResponse, hi]

theorem step_take {s : State} (hr : s.host.levels.rst = false) (hp : s.phase = .resp)
    (hready : s.host.levels.rspReady = true) : step s = .next (endStep (takeResponse s)) := by
  rw [step_resp hr hp, if_pos hready]

theorem step_pending {s : State} (hr : s.host.levels.rst = false) (hp : s.phase = .resp)
    (hready : s.host.levels.rspReady = false) : step s = .next (endStep s) := by
  rw [step_resp hr hp, hready, if_neg Bool.false_ne_true]

/-- Settles O9: the step is TAKE, or nothing but the host's levels moves on. -/
theorem takeDeliversTheResponse : Obligations.TakeDeliversTheResponse := by
  intro s cw hr hp hissued
  constructor
  · intro hready
    exact ⟨_, step_take hr hp hready, rfl, rfl, rfl, rfl, by simp [receiveResponse_of_issued s.rsp hissued], by simp,
      by simp⟩
  · intro hready
    exact ⟨_, step_pending hr hp hready, hp, rfl, rfl, rfl, by simp, by simp [hissued], by simp⟩

/-- Settles O10: the step is RESET alone. -/
theorem resetAbandonsTheCommand : Obligations.ResetAbandonsTheCommand := by
  intro s hr
  exact ⟨_, step_reset hr, rfl, rfl, rfl, by simp, by simp, by simp⟩

/-! The invariant at reset, and that its states never stop (R36, R30). -/

/-- Settles O16: the machine is IDLE, awaits nothing and has observed nothing. -/
theorem invariantHoldsAtReset : Obligations.InvariantHoldsAtReset :=
  ⟨.of_idle rfl rfl (fun _ hpair => nomatch hpair), fun _ _ _ => .of_idle rfl rfl (fun _ hpair => nomatch hpair)⟩

/-- ITERATE of a command in progress answers a next state: MUL32, which has no loop, is never in progress. -/
theorem BusyWith.iterate_next {cw : CommandWord} {s : State} (h : BusyWith cw s.w) : ∃ t, iterate s = .next t := by
  rcases iterate_cases s with ⟨op, _⟩ | ⟨_, e⟩ | ⟨_, e⟩ | ⟨_, e⟩
  · exact absurd h (not_busyWith_of_mul32 op)
  all_goals exact ⟨_, e⟩

/-- Settles O18: ITERATE is the one step that can stop, and in BUSY the invariant names a command with a loop. -/
theorem invariantStatesNeverStop : Obligations.InvariantStatesNeverStop := by
  intro s hinv
  cases hr : s.host.levels.rst with
  | true => exact ⟨_, step_reset hr⟩
  | false =>
    cases hp : s.phase with
    | idle =>
      cases ho : offeredWord s.host with
      | none => exact ⟨_, step_idle_quiet hr hp ho⟩
      | some cw =>
        obtain ⟨t, ht, _⟩ := exec_idle_next (decode cw) hp
        exact ⟨_, by rw [step_idle_offered hr hp ho, ht, mapNext_next]⟩
    | busy =>
      obtain ⟨cw, _, registers⟩ := hinv.busy hp
      obtain ⟨t, ht⟩ := registers.iterate_next
      exact ⟨_, by rw [step_busy hr hp, ht, mapNext_next]⟩
    | resp => exact ⟨_, step_resp hr hp⟩

/-! The engine does not look at the host's side (R30). -/

section WithHost

variable (s : State) (h : HostSide)

theorem iterateSmagic_withHost : iterateSmagic (s.withHost h) = (iterateSmagic s).withHost h := by
  rw [iterateSmagic_eq, iterateSmagic_eq, apply_ite (State.withHost · h)]
  rfl

theorem iterateUmagic_withHost : iterateUmagic (s.withHost h) = (iterateUmagic s).withHost h := by
  rw [iterateUmagic_eq, iterateUmagic_eq, apply_ite (State.withHost · h)]
  rfl

theorem iterateModinv_withHost : iterateModinv (s.withHost h) = (iterateModinv s).withHost h := by
  rw [iterateModinv_eq, iterateModinv_eq, apply_ite (State.withHost · h)]
  rfl

theorem iterate_withHost : iterate (s.withHost h) = mapNext (State.withHost · h) (iterate s) := by
  cases op : s.w.op with
  | mul32 => simp only [iterate, withHost_w, op, mapNext_fault]
  | smagic =>
    rw [iterate_of_smagic op, mapNext_next, ← iterateSmagic_withHost]
    exact iterate_of_smagic op
  | umagic =>
    rw [iterate_of_umagic op, mapNext_next, ← iterateUmagic_withHost]
    exact iterate_of_umagic op
  | modinv =>
    rw [iterate_of_modinv op, mapNext_next, ← iterateModinv_withHost]
    exact iterate_of_modinv op

end WithHost

theorem runEngine_withHost {k : Nat} {s u : State} (h : HostSide) (hu : runEngine k s = some u) :
    runEngine k (s.withHost h) = some (u.withHost h) := by
  induction k generalizing s with
  | zero =>
    obtain ⟨hp, rfl⟩ := runEngine_zero.1 hu
    exact runEngine_zero.2 ⟨hp, rfl⟩
  | succ k ih =>
    obtain ⟨hp, t, ht, hrun⟩ := runEngine_succ.1 hu
    exact runEngine_succ.2 ⟨hp, t.withHost h, by rw [iterate_withHost, ht, mapNext_next], ih hrun⟩

/-! Runs of the core under an eager host (R35): it never resets, and its levels stay as they are. -/

theorem core_run_add {k m : Nat} {s t : State} (h : core.run k s = .next t) : core.run (k + m) s = core.run m t := by
  induction k generalizing s with
  | zero =>
    cases h
    rw [Nat.zero_add]
  | succ k ih =>
    cases hs : step s with
    | next s' =>
      rw [core_run_succ_of_next hs] at h
      rw [Nat.add_right_comm, core_run_succ_of_next hs, ih h]
    | fault e => simp [Host.Core.run, core, hs] at h
    | refused e => simp [Host.Core.run, core, hs] at h

section EagerHost

variable {h : HostSide} (hh : EagerHost h)
include hh

theorem EagerHost.rst : h.levels.rst = false := congrArg HostLevels.rst hh.1
theorem EagerHost.cmdValid : h.levels.cmdValid = true := congrArg HostLevels.cmdValid hh.1
theorem EagerHost.rspReady : h.levels.rspReady = true := congrArg HostLevels.rspReady hh.1
theorem EagerHost.plan : h.plan = [] := hh.2

theorem EagerHost.accepting (cw : CommandWord) : EagerHost (commandAccepted cw h) := hh

theorem EagerHost.receiving (rw : ResponseWord) : EagerHost (receiveResponse rw h) := by
  simpa [EagerHost] using hh

end EagerHost

theorem EagerHost.endStep_eq {s : State} (hh : EagerHost s.host) : endStep s = s := by
  rw [endStep, advanceLevels_of_no_plan _ hh.plan]
  rfl

theorem EagerHost.step_accept {s t : State} {cw : CommandWord} {rest : List CommandWord} (hh : EagerHost s.host)
    (hp : s.phase = .idle) (hoffers : s.host.offers = cw :: rest) (ht : exec (decode cw) s = .next t) :
    step s = .next (t.withHost (commandAccepted cw s.host)) := by
  have ho : offeredWord s.host = some cw := offeredWord_eq_some_iff.2 ⟨hh.cmdValid, rest, hoffers⟩
  have hlevels : endStep (t.withHost (commandAccepted cw s.host)) = t.withHost (commandAccepted cw s.host) :=
    endStep_eq (hh.accepting cw)
  obtain ⟨hhost, _⟩ := exec_sameOutside hp ht
  rw [step_idle_offered hh.rst hp ho, ht, mapNext_next, endAccept, hhost, hlevels]

theorem EagerHost.step_eq_take {s : State} (hh : EagerHost s.host) (hp : s.phase = .resp) :
    step s = .next (takeResponse s) := by
  rw [step_take hh.rst hp hh.rspReady, endStep_eq (s := takeResponse s) (hh.receiving s.rsp)]

/-- From BUSY to RESP the core's steps are the engine's. -/
theorem EagerHost.run_of_runEngine {k : Nat} {s u : State} (hh : EagerHost s.host) (h : runEngine k s = some u) :
    core.run k s = .next u := by
  induction k generalizing s with
  | zero =>
    obtain ⟨_, rfl⟩ := runEngine_zero.1 h
    rfl
  | succ k ih =>
    obtain ⟨hp, t, ht, hrun⟩ := runEngine_succ.1 h
    obtain ⟨hhost, _⟩ := iterate_sameOutside ht
    have hh' : EagerHost t.host := by rwa [hhost]
    have hstep : step s = .next t := by
      rw [step_busy hh.rst hp, ht, mapNext_next, hh'.endStep_eq]
    rw [core_run_succ_of_next hstep]
    exact ih hh' hrun

/-- The iterations and the TAKE after an ACCEPT, whatever the host noted of the ACCEPT. -/
theorem EagerHost.run_to_take {k : Nat} {t u : State} {h : HostSide} (hh : EagerHost h)
    (hu : runEngine k t = some u) : core.run (k + 1) (t.withHost h) = .next (takeResponse (u.withHost h)) := by
  have hiterate : core.run k (t.withHost h) = .next (u.withHost h) := run_of_runEngine hh (runEngine_withHost h hu)
  have htake : step (u.withHost h) = .next (takeResponse (u.withHost h)) := step_eq_take hh (runEngine_phase (u := u) hu)
  exact (core_run_add hiterate).trans (core_run_succ_of_next htake)

/-- One command from IDLE to IDLE: ACCEPT, the iterations of R32, and TAKE, which adds `(cw, Exec(cw))` to the
observation. -/
theorem EagerHost.run_one_command {s : State} {cw : CommandWord} {rest : List CommandWord} (hh : EagerHost s.host)
    (hp : s.phase = .idle) (hoffers : s.host.offers = cw :: rest) :
    ∃ k t rw, core.run k s = .next t ∧ t.phase = .idle ∧ EagerHost t.host ∧ t.host.offers = rest ∧
      execWord cw = some rw ∧ t.host.observed = s.host.observed ++ [(cw, rw)] := by
  obtain ⟨k, u, _, _, ⟨t, ht, hu⟩, _, hexec, rfl, _⟩ := stepsAgreeWithExec cw s hp
  have hwaiting : EagerHost (commandAccepted cw s.host) := hh.accepting cw
  refine ⟨k + 1 + 1, takeResponse (u.withHost (commandAccepted cw s.host)), u.rsp, ?_, rfl, hwaiting.receiving _, ?_,
    hexec, ?_⟩
  · exact (core_run_succ_of_next (hh.step_accept hp hoffers ht)).trans (hwaiting.run_to_take hu)
  · simp [hoffers]
  · simp [receiveResponse_of_issued]

/-- Settles O15, by induction on the words to issue: each command is run from IDLE to IDLE. -/
theorem hostObservesExecOfEveryCommand : Obligations.HostObservesExecOfEveryCommand := by
  intro s hp hh
  induction hoffers : s.host.offers generalizing s with
  | nil => exact ⟨0, s, [], rfl, hp, hoffers, rfl, by simp⟩
  | cons cw rest ih =>
    obtain ⟨k, t, rw, hrun, hp', hh', hoffers', hexec, hobserved⟩ := hh.run_one_command hp hoffers
    obtain ⟨m, u, rws, hrun', hp'', hempty, hexecs, hobserved'⟩ := ih t hp' hh' hoffers'
    refine ⟨k + m, u, rw :: rws, (core_run_add hrun).trans hrun', hp'', hempty, ?_, ?_⟩
    · simp [hexec, hexecs]
    · simp [hobserved', hobserved]

end Sys2Proof.Machine
